-- ==== Sys2Proof/Word.lean ====
section
/-! DEFINITION. The word types of the block. Every value is an unsigned integer of a stated width with bit 0
least significant (R6); nothing in the block is signed. -/

namespace Sys2Proof

/-- One byte: an operand, a row bitmap, a device address or a device value (R76). -/
abbrev Byte := BitVec 8

/-- A command word, CMD24 (R74). -/
abbrev CmdWord := BitVec 24

/-- A serial frame word, FRAME16 (R70). -/
abbrev FrameWord := BitVec 16

end Sys2Proof
end

