-- ==== Sys2Proof/Syntax.lean ====
section
/-! DEFINITION. The instructions: one constructor per row of spec/opcode_table.json. Fields the encoding ignores
(R78) are no part of an instruction. -/

namespace Sys2Proof

/-- The sixteen CMD24 rows (R75), the pseudo-instruction SET_FRAME (R83) and the thirteen FRAME16 rows (R72).
Every operand is an unsigned byte and any byte is legal (R76); the flag `on` is `f[0]`. -/
inductive Instr
  /-- NOP (R197). -/
  | nop
  /-- WRITE_REG address, value (R101). -/
  | writeReg (address value : Byte)
  /-- DEV_INIT level (R102). -/
  | devInit (level : Byte)
  /-- SET_PIXEL row, col, on (R120). -/
  | setPixel (row col : Byte) (on : Bool)
  /-- SET_ROW row, value (R121). -/
  | setRow (row value : Byte)
  /-- CLEAR (R122). -/
  | clear
  /-- GAME_INIT (R140). -/
  | gameInit
  /-- PLAY_AT row, col (R141). -/
  | playAt (row col : Byte)
  /-- EVALUATE (R146). -/
  | evaluate
  /-- AWAIT_MOVE (R174). -/
  | awaitMove
  /-- Reserved opcode 0xA (R198). -/
  | reservedA
  /-- Reserved opcode 0xB (R198). -/
  | reservedB
  /-- Reserved opcode 0xC (R198). -/
  | reservedC
  /-- Reserved opcode 0xD (R198). -/
  | reservedD
  /-- Reserved opcode 0xE (R198). -/
  | reservedE
  /-- Reserved opcode 0xF (R198). -/
  | reservedF
  /-- SET_FRAME v0, ..., v7: the pseudo-instruction of eight SET_ROW (R83, R123). -/
  | setFrame (v0 v1 v2 v3 v4 v5 v6 v7 : Byte)
  /-- The frame that writes display row 0, device address 0x01 (R56). -/
  | fRow0 (val : Byte)
  /-- The frame that writes display row 1, device address 0x02 (R56). -/
  | fRow1 (val : Byte)
  /-- The frame that writes display row 2, device address 0x03 (R56). -/
  | fRow2 (val : Byte)
  /-- The frame that writes display row 3, device address 0x04 (R56). -/
  | fRow3 (val : Byte)
  /-- The frame that writes display row 4, device address 0x05 (R56). -/
  | fRow4 (val : Byte)
  /-- The frame that writes display row 5, device address 0x06 (R56). -/
  | fRow5 (val : Byte)
  /-- The frame that writes display row 6, device address 0x07 (R56). -/
  | fRow6 (val : Byte)
  /-- The frame that writes display row 7, device address 0x08 (R56). -/
  | fRow7 (val : Byte)
  /-- The frame that writes the decode mode, device address 0x09 (R51). -/
  | fDecode (val : Byte)
  /-- The frame that writes the intensity, device address 0x0A (R52). -/
  | fIntensity (val : Byte)
  /-- The frame that writes the scan limit, device address 0x0B (R53). -/
  | fScanLimit (val : Byte)
  /-- The frame that writes the shutdown register, device address 0x0C (R54). -/
  | fShutdown (val : Byte)
  /-- The frame that writes the display-test register, device address 0x0F (R55). -/
  | fDispTest (val : Byte)
  deriving DecidableEq, Repr

end Sys2Proof
end

