-- ==== Sys2Proof/WellFormed.lean ====
section
/-! DEFINITION. Which instructions and command words are well formed. The block itself checks nothing: a frame with
a value R50 does not list is sent and latched all the same (R101, U7), and a word with bits in its unused fields
runs as if they were zero (R78). -/

namespace Sys2Proof

/-- The device values R50 lists: decode mode 0x00 (R51), intensity 0x00 to 0x0F (R52), scan limit 7 (R53), shutdown
0 or 1 (R54), display test 0 or 1 (R55). Every other operand of every other instruction is legal at any value
(R76). -/
def Instr.wf : Instr → Bool
  | .fDecode v => v == 0x00#8
  | .fIntensity v => v.ule 0x0F#8
  | .fScanLimit v => v == 0x07#8
  | .fShutdown v => v.ule 0x01#8
  | .fDispTest v => v.ule 0x01#8
  | .nop | .writeReg _ _ | .devInit _ | .setPixel _ _ _ | .setRow _ _ | .clear | .gameInit | .playAt _ _
  | .evaluate | .awaitMove | .reservedA | .reservedB | .reservedC | .reservedD | .reservedE | .reservedF
  | .setFrame _ _ _ _ _ _ _ _ | .fRow0 _ | .fRow1 _ | .fRow2 _ | .fRow3 _ | .fRow4 _ | .fRow5 _ | .fRow6 _
  | .fRow7 _ => true

/-- The bits of a command word that its opcode leaves unused (R75, R78), as a mask. -/
def unusedMask (op : BitVec 4) : CmdWord :=
  match op.toNat with
  | 0x1 => 0x0F0000#24
  | 0x2 => 0x0FFF00#24
  | 0x3 => 0x0E0000#24
  | 0x4 => 0x0F0000#24
  | 0x7 => 0x0F0000#24
  | _ => 0x0FFFFF#24

/-- The word an assembler emits: its unused fields are zero (R78). -/
def CmdWord.canonical (w : CmdWord) : Bool :=
  w &&& unusedMask (w.extractLsb' 20 4) == 0#24

end Sys2Proof
end

