-- ==== Sys2Proof/Decode.lean ====
section
/-! DEFINITION. The decoder of command words, of frame words and of the pseudo-instruction's eight words, and the
encoder (R70, R74, R75, R83, R84). -/

namespace Sys2Proof

/-- What carries an instruction's bits: one command word on the `cmd` port (R74), one frame word on the serial link
(R70), or the command words a pseudo-instruction stands for (R83). -/
inductive Code
  | cmd (w : CmdWord)
  | frame (w : FrameWord)
  | expansion (ws : List CmdWord)
  deriving DecidableEq, Repr

/-- Why bits are no instruction of the table. -/
inductive Reject
  /-- A frame whose address is in no row of R50. The block sends such a frame and the receiver stores it (U6); it has
  no instruction of its own. -/
  | unlistedDeviceAddress
  /-- Command words that are not the eight words of SET_FRAME (R83). -/
  | notAnExpansion
  deriving DecidableEq, Repr

/-! ## Fields -/

/-- `op = cmd[23:20]` (R74). -/
def CmdWord.op (w : CmdWord) : BitVec 4 := w.extractLsb' 20 4

/-- `on = cmd[16]`, that is `f[0]` (R74, R84). -/
def CmdWord.on (w : CmdWord) : Bool := w.getLsbD 16

/-- `a = cmd[15:8]` (R74). -/
def CmdWord.a (w : CmdWord) : Byte := w.extractLsb' 8 8

/-- `b = cmd[7:0]` (R74). -/
def CmdWord.b (w : CmdWord) : Byte := w.extractLsb' 0 8

/-- `addr = W[15:8]` (R70). -/
def FrameWord.addr (w : FrameWord) : Byte := w.extractLsb' 8 8

/-- `val = W[7:0]` (R70). -/
def FrameWord.val (w : FrameWord) : Byte := w.extractLsb' 0 8

/-- A command word from its four fields (R74). -/
def cmdWord (op f : BitVec 4) (a b : Byte) : CmdWord := op ++ f ++ a ++ b

/-- The frame word `{a, v}` (R70, R77). -/
def frameWord (a v : Byte) : FrameWord := a ++ v

/-! ## Decoding -/

/-- The decoding law (R84): the row of R75 whose opcode is `op`. Total; fields the row does not use are ignored
(R78). -/
def decodeCmd (w : CmdWord) : Instr :=
  match w.op.toNat with
  | 0x0 => .nop
  | 0x1 => .writeReg w.a w.b
  | 0x2 => .devInit w.b
  | 0x3 => .setPixel w.a w.b w.on
  | 0x4 => .setRow w.a w.b
  | 0x5 => .clear
  | 0x6 => .gameInit
  | 0x7 => .playAt w.a w.b
  | 0x8 => .evaluate
  | 0x9 => .awaitMove
  | 0xA => .reservedA
  | 0xB => .reservedB
  | 0xC => .reservedC
  | 0xD => .reservedD
  | 0xE => .reservedE
  | _ => .reservedF

/-- The decoder of the wire (R72): "the `match` and `mask` values … test `addr` alone". -/
def decodeFrame (w : FrameWord) : Except Reject Instr :=
  match w.addr.toNat with
  | 0x01 => .ok (.fRow0 w.val)
  | 0x02 => .ok (.fRow1 w.val)
  | 0x03 => .ok (.fRow2 w.val)
  | 0x04 => .ok (.fRow3 w.val)
  | 0x05 => .ok (.fRow4 w.val)
  | 0x06 => .ok (.fRow5 w.val)
  | 0x07 => .ok (.fRow6 w.val)
  | 0x08 => .ok (.fRow7 w.val)
  | 0x09 => .ok (.fDecode w.val)
  | 0x0A => .ok (.fIntensity w.val)
  | 0x0B => .ok (.fScanLimit w.val)
  | 0x0C => .ok (.fShutdown w.val)
  | 0x0F => .ok (.fDispTest w.val)
  | _ => .error .unlistedDeviceAddress

/-- Eight commands that are `SET_ROW 0, v0` to `SET_ROW 7, v7` in this order are the pseudo-instruction (R83). -/
def recogniseSetFrame : List Instr → Except Reject Instr
  | [.setRow r0 v0, .setRow r1 v1, .setRow r2 v2, .setRow r3 v3, .setRow r4 v4, .setRow r5 v5, .setRow r6 v6,
      .setRow r7 v7] =>
    if [r0, r1, r2, r3, r4, r5, r6, r7] = [0#8, 1#8, 2#8, 3#8, 4#8, 5#8, 6#8, 7#8]
    then .ok (.setFrame v0 v1 v2 v3 v4 v5 v6 v7)
    else .error .notAnExpansion
  | _ => .error .notAnExpansion

/-- The decoder, total on any bits of the three formats. -/
def decode : Code → Except Reject Instr
  | .cmd w => .ok (decodeCmd w)
  | .frame w => decodeFrame w
  | .expansion ws => recogniseSetFrame (ws.map decodeCmd)

/-! ## Encoding -/

/-- The eight words of SET_FRAME, `0x4000vv` to `0x4007vv` (R83). -/
def setFrameWords (v0 v1 v2 v3 v4 v5 v6 v7 : Byte) : List CmdWord :=
  [cmdWord 0x4 0 0 v0, cmdWord 0x4 0 1 v1, cmdWord 0x4 0 2 v2, cmdWord 0x4 0 3 v3,
    cmdWord 0x4 0 4 v4, cmdWord 0x4 0 5 v5, cmdWord 0x4 0 6 v6, cmdWord 0x4 0 7 v7]

/-- The encoder (R75, R72, R83). "An assembler emits zero" in the unused fields (R78). -/
def encode : Instr → Code
  | .nop => .cmd (cmdWord 0x0 0 0 0)
  | .writeReg a v => .cmd (cmdWord 0x1 0 a v)
  | .devInit l => .cmd (cmdWord 0x2 0 0 l)
  | .setPixel r c on => .cmd (cmdWord 0x3 (BitVec.ofNat 4 on.toNat) r c)
  | .setRow r v => .cmd (cmdWord 0x4 0 r v)
  | .clear => .cmd (cmdWord 0x5 0 0 0)
  | .gameInit => .cmd (cmdWord 0x6 0 0 0)
  | .playAt r c => .cmd (cmdWord 0x7 0 r c)
  | .evaluate => .cmd (cmdWord 0x8 0 0 0)
  | .awaitMove => .cmd (cmdWord 0x9 0 0 0)
  | .reservedA => .cmd (cmdWord 0xA 0 0 0)
  | .reservedB => .cmd (cmdWord 0xB 0 0 0)
  | .reservedC => .cmd (cmdWord 0xC 0 0 0)
  | .reservedD => .cmd (cmdWord 0xD 0 0 0)
  | .reservedE => .cmd (cmdWord 0xE 0 0 0)
  | .reservedF => .cmd (cmdWord 0xF 0 0 0)
  | .setFrame v0 v1 v2 v3 v4 v5 v6 v7 => .expansion (setFrameWords v0 v1 v2 v3 v4 v5 v6 v7)
  | .fRow0 v => .frame (frameWord 0x01 v)
  | .fRow1 v => .frame (frameWord 0x02 v)
  | .fRow2 v => .frame (frameWord 0x03 v)
  | .fRow3 v => .frame (frameWord 0x04 v)
  | .fRow4 v => .frame (frameWord 0x05 v)
  | .fRow5 v => .frame (frameWord 0x06 v)
  | .fRow6 v => .frame (frameWord 0x07 v)
  | .fRow7 v => .frame (frameWord 0x08 v)
  | .fDecode v => .frame (frameWord 0x09 v)
  | .fIntensity v => .frame (frameWord 0x0A v)
  | .fScanLimit v => .frame (frameWord 0x0B v)
  | .fShutdown v => .frame (frameWord 0x0C v)
  | .fDispTest v => .frame (frameWord 0x0F v)

/-! ## The table's numbering -/

/-- The command words of a number that holds several, the first in its lowest 24 bits. -/
def wordsOf : Nat → Nat → List CmdWord
  | 0, _ => []
  | k + 1, w => BitVec.ofNat 24 w :: wordsOf k (w / 2 ^ 24)

/-- The instruction read from an instruction whose bits are `w` in the numbering of spec/opcode_table.json. A 16-bit
instruction is a frame word, a 24-bit one a command word, and one of 192 bits the eight words of SET_FRAME (log
entry 17). -/
def decodeTableWord (nbits w : Nat) : Option Instr :=
  match nbits with
  | 16 => (decode (.frame (BitVec.ofNat 16 w))).toOption
  | 24 => (decode (.cmd (BitVec.ofNat 24 w))).toOption
  | 192 => (decode (.expansion (wordsOf 8 w))).toOption
  | _ => none

end Sys2Proof
end

