-- ==== Sys2Proof/Config.lean ====
section
/-! DEFINITION. What an implementation fixes, and the values the spec leaves free. A free value is an opaque
constant: nothing can evaluate it, so what is proved holds whatever it is. -/

namespace Sys2Proof

/-- The inputs of one step (R192): what the host drives (`rst`, `cmdValid`, `cmd`), what the environment drives
(`posBus`, `posOvr`), and `draw`, the value `draw4()` returns if it is called in this step (R7, R171). All six are
free. -/
structure StepInput where
  rst : Bool
  cmdValid : Bool
  cmd : CmdWord
  posBus : BitVec 9
  posOvr : Bool
  draw : BitVec 4
  deriving DecidableEq, Repr, Inhabited

/-- The inputs of the steps for which State lists none, numbered from 0 (R29 (b), (c), (d): "it must not fix them").
Free (log entry 1). -/
opaque Config.freeInputs : Nat → StepInput

/-- The device's shift register before anything has been shifted in: "their values after power-up are not in the
source and a model must treat them as unknown until written" (R29, U8). Free (DESIGN CHOICE, log entry 3). -/
opaque Config.shAtPowerUp : FrameWord

/-- What a device register holds before any frame has written it: "`any value` for every `DEV[a]` and for `SH` at the
start of a run" (U8, R29, R47). Free (DESIGN CHOICE, log entry 4). -/
opaque Config.devAtPowerUp : Byte → Byte

/-- `SKIP_UNCHANGED` (R5, U1): would an in-range SET_PIXEL that leaves its row unchanged send no frame? The spec
fixes it to false: "the reference behavior issues the write unconditionally on every call" (log entry 10). -/
def Config.skipUnchanged : Bool := false

end Sys2Proof
end

