-- ==== Sys2Proof/Machine/State.lean ====
section
/-! DEFINITION. The state: the block whole (R10), the device at the far end of the link (R29, R47), and the inputs
of the coming steps (R192). -/

namespace Sys2Proof.Machine

/-- A board cell: "one of {Empty, Player1, Player2}" (R14). -/
inductive Cell
  | empty
  | player1
  | player2
  deriving DecidableEq, Repr, Inhabited

/-- A player: the values of nextPlayer (R20). -/
inductive Player
  | player1
  | player2
  deriving DecidableEq, Repr, Inhabited

/-- The values of outcome (R21). Those other than `inProgress` are terminal. -/
inductive GameOutcome
  | inProgress
  | player1Wins
  | player2Wins
  | draw
  deriving DecidableEq, Repr, Inhabited

/-- The three lines of the serial link (R13). -/
inductive Line
  | data
  | clock
  | cs
  deriving DecidableEq, Repr, Inhabited

/-- "Line `L` takes level `b`" (R7, R195). -/
structure LineEvent where
  line : Line
  level : Bool
  deriving DecidableEq, Repr, Inhabited

/-- The device's register file (R47), as (address, byte) pairs in ascending order of address: the registers a frame has
written, each with the byte it holds. A register that is not listed holds its free byte, `Config.devAtPowerUp` (R29, U8,
log entry 4). -/
abbrev Memory := List Host.Cell

/-- The canonical form: addresses strictly rising, each the address of a device register (R47: 0x00 to 0xFF). Two such
lists that read alike whatever the free bytes are, are the same list (`Memory.eq_of_readWith`). -/
abbrev Memory.wf (m : Memory) : Prop :=
  m.Pairwise (fun x y => x.1 < y.1) ∧ ∀ x ∈ m, x.1 < 256

/-- The state of the machine. The first ten fields are the block's, complete by R10; `sh` and `dev` are the reference
receiver's (R29, R47); `inputs` and `tick` are the model's own (log entry 1). -/
structure State where
  /-- `ROW[0..7]`: the row cache, column `c` in bit `7-c` (R11). -/
  rows : Vector Byte 8
  /-- `CELL[0..8]`: the board, cell `(i, j)` at `3*i + j` (R14). -/
  cells : Vector Cell 9
  /-- `MOVES`: the move count (R19). -/
  moves : BitVec 4
  /-- `NEXT`: the player whose mark the next accepted move places (R20). -/
  nextPlayer : Player
  /-- `OUTCOME` (R21). -/
  outcome : GameOutcome
  /-- The level of the DATA line (R13). -/
  data : Bool
  /-- The level of the CLOCK line (R13). -/
  clock : Bool
  /-- The level of the CHIP-SELECT/LOAD line (R13). -/
  cs : Bool
  /-- `PEND`: events emitted and not yet performed, oldest first (R10, R60). -/
  pend : List LineEvent
  /-- `WAITING`: an AWAIT_MOVE is waiting for a position (R10). -/
  waiting : Bool
  /-- `SH`: the device's 16-bit input shift register (R47). -/
  sh : FrameWord
  /-- `DEV`: the device's registers (R47). -/
  dev : Memory
  /-- The inputs of the coming steps, the next step's first (R192). -/
  inputs : List StepInput
  /-- How many inputs have been drawn from `Config.freeInputs`. -/
  tick : Nat
  deriving DecidableEq, Repr

/-- Why the machine would stop with a fault. It never does: "A model's step function for this block has one outcome
(the next state); it needs no fault outcome for any command" (R210). Nobody raises one; leaving the type empty is
safe. -/
inductive Fault
  deriving DecidableEq, Repr

/-- Why an instruction would have no meaning. -/
inductive Refusal
  /-- Raised by `exec` alone, for an instruction that is not modelled yet. Safe: the run stops. No arm answers it:
  every instruction has its meaning. -/
  | notModelled (mnemonic : String)
  deriving DecidableEq, Repr

/-- What one step or one instruction answers. -/
abbrev Result := Host.Outcome State Fault Refusal

/-- The state right after reset (R31). The device is not reset and holds free values (R29, R31, U8): `sh` is one, and
`dev` lists nothing, so that every register holds its own (log entries 3, 4). No input is listed: the host and the
environment are free (log entry 1). -/
def State.reset : State where
  rows := Vector.replicate 8 0x00#8
  cells := Vector.replicate 9 .empty
  moves := 0#4
  nextPlayer := .player1
  outcome := .inProgress
  data := false
  clock := false
  cs := true
  pend := []
  waiting := false
  sh := Config.shAtPowerUp
  dev := []
  inputs := []
  tick := 0

end Sys2Proof.Machine
end

