-- ==== Sys2Proof/Machine/Operands.lean ====
section
/-! DEFINITION. Every computed operand of the block (R77): range checks, addresses, masks, board indices, and the
decoding of the position bus (R170, R172). -/

namespace Sys2Proof.Machine

/-! ## Range checks (R76, R211): "out of range" is greater than the upper bound -/

/-- A display row or column, 0 to 7. -/
def displayIndex? (x : Byte) : Option (Fin 8) :=
  if h : x.toNat < 8 then some ⟨x.toNat, h⟩ else none

/-- A board row or column, 0 to 2. -/
def boardCoord? (x : Byte) : Option (Fin 3) :=
  if h : x.toNat < 3 then some ⟨x.toNat, h⟩ else none

/-! ## Display operands -/

/-- The row register address, `0x01 + r` (R77, R56). -/
def rowAddress (r : Fin 8) : Byte := 0x01#8 + BitVec.ofNat 8 r.val

/-- The column mask, `0x80 >> c` (R77): column 0 is bit 7. -/
def columnMask (c : Fin 8) : Byte := 0x80#8 >>> c.val

/-- The row with column `c` lit or darkened (R120). -/
def withPixel (v : Byte) (c : Fin 8) (on : Bool) : Byte :=
  if on then v ||| columnMask c else v &&& ~~~(columnMask c)

/-- The intensity value, `level & 0x0F` (R77, R102). -/
def intensityValue (level : Byte) : Byte := level &&& 0x0F#8

/-- The display rows, in ascending order. -/
def displayRows : List (Fin 8) := [0, 1, 2, 3, 4, 5, 6, 7]

/-! ## Board operands -/

/-- The board index `3*i + j` (R77, R14). -/
def boardIndex (i j : Fin 3) : Fin 9 := ⟨3 * i.val + j.val, by omega⟩

/-- The first display row or column of a board row or column, `3*i` (R147). -/
def blockFirst (i : Fin 3) : Fin 8 := ⟨3 * i.val, by omega⟩

/-- The second display row or column of a board row or column, `3*i + 1` (R147). -/
def blockSecond (i : Fin 3) : Fin 8 := ⟨3 * i.val + 1, by omega⟩

/-! ## Positions -/

/-- The bus line that is asserted, when exactly one is (R170). -/
def oneHotLine? (bus : BitVec 9) : Option Nat :=
  [0, 1, 2, 3, 4, 5, 6, 7, 8].find? fun k => bus == 1#9 <<< k

/-- The position decode (R170): the override line selects 9; no line is the sentinel 0; line `k` alone selects
`k + 1`; with two or more lines the position is the draw (R171), no priority rule. -/
def decodePosition (bus : BitVec 9) (ovr : Bool) (draw : BitVec 4) : BitVec 4 :=
  if ovr then 9#4
  else if bus = 0#9 then 0#4
  else match oneHotLine? bus with
    | some k => BitVec.ofNat 4 (k + 1)
    | none => draw

/-- Position to board coordinates, `row = (p-1) / 3`, `col = (p-1) % 3`, for `p` in 1 to 15 (R172). -/
def posToRowCol (p : BitVec 4) : Byte × Byte :=
  (BitVec.ofNat 8 ((p.toNat - 1) / 3), BitVec.ofNat 8 ((p.toNat - 1) % 3))

end Sys2Proof.Machine
end

