-- ==== Sys2Proof/Machine/Flags.lean ====
section
/-! DEFINITION. The game flags (R19 to R21): the mark of a player, the alternation of turns, and the evaluation of
the board for a win or a draw (R144, R145). -/

namespace Sys2Proof.Machine

/-- The mark of a player (R80): Player1's mark is Player1, Player2's mark is Player2. -/
def Player.mark : Player → Cell
  | .player1 => .player1
  | .player2 => .player2

/-- The other player: "flip nextPlayer" (R142). -/
def Player.other : Player → Player
  | .player1 => .player2
  | .player2 => .player1

/-- The outcome that a player's win is (R145). -/
def Player.wins : Player → GameOutcome
  | .player1 => .player1Wins
  | .player2 => .player2Wins

/-- The eight lines as board indices, in the source's scan order: rows 0 to 2, columns 0 to 2, the main diagonal,
the anti-diagonal (R144). -/
def boardLines : List (Fin 9 × Fin 9 × Fin 9) :=
  [(0, 1, 2), (3, 4, 5), (6, 7, 8), (0, 3, 6), (1, 4, 7), (2, 5, 8), (0, 4, 8), (6, 4, 2)]

/-- "A line matches when all three cells are equal and non-Empty" (R144): the player who owns it. -/
def lineOwner? (cells : Vector Cell 9) (l : Fin 9 × Fin 9 × Fin 9) : Option Player :=
  match cells[l.1], cells[l.2.1], cells[l.2.2] with
  | .player1, .player1, .player1 => some .player1
  | .player2, .player2, .player2 => some .player2
  | _, _, _ => none

/-- The owner of the first matching line in scan order, "stopping at the first match" (R145). -/
def winner? (cells : Vector Cell 9) : Option Player := boardLines.findSome? (lineOwner? cells)

/-- The value the evaluate operation leaves in OUTCOME (R145): below five moves, and when no line matches before the
ninth move, it is the old one. -/
def evaluatedOutcome (cells : Vector Cell 9) (moves : BitVec 4) (old : GameOutcome) : GameOutcome :=
  if moves < 5#4 then old
  else match winner? cells with
    | some p => p.wins
    | none => if moves = 9#4 then .draw else old

end Sys2Proof.Machine
end

