-- ==== Sys2Proof/Machine/Ops.lean ====
section
/-! DEFINITION. The shared operations: reading and writing the fields of State, the serial frame (R100), the device
registers and the reference receiver (R47), the row cache (R120 to R122), the game (R142, R147), and reset (R240).
The block takes no exception: "no effect" is what stands in the place of one (R211, R215). -/

namespace Sys2Proof.Machine

/-! ## No effect -/

/-- `no effect` (R7): no state changes and no line event is produced. What every absorbed violation answers in the
place of an exception (R210, R211, R215). -/
def noEffect (s : State) : Result := .next s

/-! ## The device registers -/

/-- The byte a device register holds, given what the registers held at power-up. -/
def Memory.readWith (atPowerUp : Byte → Byte) (m : Memory) (a : Byte) : Byte :=
  ((m.find? fun x => x.1 == a.toNat).map (·.2)).getD (atPowerUp a)

/-- `DEV[a]` (R47): the byte last written, or the free byte where no frame has written the register (R29, U8). No command
reads a device register (R46): this is for statements and for the display (R57). -/
def Memory.read (m : Memory) (a : Byte) : Byte := m.readWith Config.devAtPowerUp a

/-- Insert in ascending order, in the place of an entry of the same address. -/
def Memory.insert (a : Nat) (v : Byte) : Memory → Memory
  | [] => [(a, v)]
  | x :: m =>
    if a < x.1 then (a, v) :: x :: m
    else if a = x.1 then (a, v) :: m
    else x :: Memory.insert a v m

/-- `DEV[a] <- v` (R47). -/
def Memory.write (m : Memory) (a v : Byte) : Memory := Memory.insert a.toNat v m

/-- The device latches a pair: `DEV[a] <- v`; any address, no display meaning attached (R47, R50, U6). -/
def State.latchPair (s : State) (a v : Byte) : State := { s with dev := Memory.write s.dev a v }

/-! ## Line events -/

/-- `emit` (R7): append to the list that becomes PEND. -/
def State.emit (s : State) (es : List LineEvent) : State := { s with pend := s.pend ++ es }

/-- One bit on the wire: data to the bit's value, clock low, clock high (R71). -/
def bitEvents (b : Bool) : List LineEvent := [⟨.data, b⟩, ⟨.clock, false⟩, ⟨.clock, true⟩]

/-- One byte on the wire, bit 7 first (R44, R100). -/
def byteEvents (v : Byte) : List LineEvent := [7, 6, 5, 4, 3, 2, 1, 0].flatMap fun i => bitEvents (v.getLsbD i)

/-- `frame(a, v)`: the 51 line events of one serial frame (R100). -/
def frame (a v : Byte) : List LineEvent :=
  [⟨.cs, true⟩] ++ byteEvents a ++ byteEvents v ++ [⟨.cs, false⟩, ⟨.cs, true⟩]

/-- `MemWrite(a, 1, v)`, the only store the block has (R7): send one frame. -/
def State.sendFrame (s : State) (a v : Byte) : State := s.emit (frame a v)

/-- The frames of a list of pairs, in order, each complete before the next (R49 (c), R60). -/
def frames (ps : List (Byte × Byte)) : List LineEvent := ps.flatMap fun p => frame p.1 p.2

/-- A line register takes a level; the other two keep theirs (R195). -/
def State.setLine (s : State) : Line → Bool → State
  | .data, b => { s with data := b }
  | .clock, b => { s with clock := b }
  | .cs, b => { s with cs := b }

/-- `SH <- {SH[14:0], DATA}` (R47): every bit moves up by one, DATA enters at bit 0. -/
def State.shiftIn (s : State) : State := { s with sh := s.sh.shiftConcat s.data }

/-- A rising edge of CLOCK: the event raises a clock that is low (R47). -/
def isClockRise (s : State) (e : LineEvent) : Bool := e.line == .clock && e.level && !s.clock

/-- A rising edge of CS: the event raises a chip select that is low (R47). -/
def isLatchEdge (s : State) (e : LineEvent) : Bool := e.line == .cs && e.level && !s.cs

/-- Perform a line event (R195), with what the receiver does at a clock edge: it shifts DATA in (R47). The latch at a
CS edge is not part of it. -/
def State.moveLine (s : State) (e : LineEvent) : State :=
  let t := s.setLine e.line e.level
  if isClockRise s e then t.shiftIn else t

/-- The device latches what its shift register holds: `DEV[SH[15:8]] <- SH[7:0]` (R47). -/
def State.latch (s : State) : State :=
  s.latchPair (s.sh.extractLsb' 8 8) (s.sh.extractLsb' 0 8)

/-- Perform a line event whole: the register takes the level and the receiver sees the edge (R195, R47). -/
def State.perform (s : State) (e : LineEvent) : State :=
  if isLatchEdge s e then (s.moveLine e).latch else s.moveLine e

/-- Perform a list of line events, in order. -/
def State.performAll (s : State) (es : List LineEvent) : State := es.foldl State.perform s

/-- The state once every pending event has been performed: what the host waits for between two commands (R191,
R196). -/
def State.settle (s : State) : State := State.performAll { s with pend := [] } s.pend

/-! ## The row cache -/

/-- `ROW[r]`. -/
def State.row (s : State) (r : Fin 8) : Byte := s.rows[r]

/-- `ROW[r] <- v`. -/
def State.putRow (s : State) (r : Fin 8) (v : Byte) : State := { s with rows := s.rows.set r v }

/-- `ROW[r] <- v; frame(0x01 + r, v)`: the body of SET_ROW (R121). -/
def State.sendRow (s : State) (r : Fin 8) (v : Byte) : State := (s.putRow r v).sendFrame (rowAddress r) v

/-- The SET_PIXEL operation for a pixel in range (R120), with `SKIP_UNCHANGED` as Config fixes it (U1). -/
def State.setPixelAt (s : State) (r c : Fin 8) (on : Bool) : State :=
  if Config.skipUnchanged && withPixel (s.row r) c on == s.row r then s
  else s.sendRow r (withPixel (s.row r) c on)

/-- The SET_ROW operation (R121): `row > 7` has no effect. -/
def State.setRowAt (s : State) (row value : Byte) : State :=
  match displayIndex? row with
  | some r => s.sendRow r value
  | none => s

/-- The CLEAR operation (R122): every row 0, eight frames in ascending order. -/
def State.clearRows (s : State) : State := displayRows.foldl (fun t r => t.sendRow r 0x00#8) s

/-! ## The game -/

/-- `CELL[k]`. -/
def State.cell (s : State) (k : Fin 9) : Cell := s.cells[k]

/-- `CELL[k] <- c`. -/
def State.putCell (s : State) (k : Fin 9) (c : Cell) : State := { s with cells := s.cells.set k c }

/-- `MOVES <- MOVES + 1; NEXT <- the other player` (R142). -/
def State.countMove (s : State) : State := { s with moves := s.moves + 1#4, nextPlayer := s.nextPlayer.other }

/-- The evaluate operation (R145): it writes only OUTCOME. -/
def State.evaluate (s : State) : State := { s with outcome := evaluatedOutcome s.cells s.moves s.outcome }

/-- The pixels a mark lights in the block of cell `(i, j)`, in row-major order (R147). -/
def markPixels (m : Cell) (i j : Fin 3) : List (Fin 8 × Fin 8) :=
  match m with
  | .empty => []
  | .player1 =>
    [(blockFirst i, blockFirst j), (blockFirst i, blockSecond j), (blockSecond i, blockFirst j),
      (blockSecond i, blockSecond j)]
  | .player2 => [(blockFirst i, blockFirst j), (blockSecond i, blockSecond j)]

/-- The render operation (R147): SET_PIXEL on each pixel the mark lights. -/
def State.render (s : State) (i j : Fin 3) (m : Cell) : State :=
  (markPixels m i j).foldl (fun t p => t.setPixelAt p.1 p.2 true) s

/-- The move-acceptance operation (R142). -/
def State.acceptMove (s : State) (i j : Fin 3) : State :=
  ((s.putCell (boardIndex i j) s.nextPlayer.mark).countMove.evaluate).render i j s.nextPlayer.mark

/-- A new game (R140): "Board → all Empty; moveCount → 0; nextPlayer → Player1; outcome → InProgress". -/
def State.newGame (s : State) : State :=
  { s with cells := Vector.replicate 9 .empty, moves := 0#4, nextPlayer := .player1, outcome := .inProgress }

/-- `WAITING <- b`. -/
def State.setWaiting (s : State) (b : Bool) : State := { s with waiting := b }

/-! ## Reset and inputs -/

/-- The block's own state takes its reset values (R31, R240). The device is not reset (R241), and the inputs are
nobody's to reset. -/
def State.resetBlock (s : State) : State :=
  { State.reset with sh := s.sh, dev := s.dev, inputs := s.inputs, tick := s.tick }

/-- The inputs of this step, and the state without them: the first of the list, or the next of the free stream (R192,
log entry 1). -/
def State.takeInput (s : State) : StepInput × State :=
  match s.inputs with
  | i :: rest => (i, { s with inputs := rest })
  | [] => (Config.freeInputs s.tick, { s with tick := s.tick + 1 })

end Sys2Proof.Machine
end

