-- ==== Sys2Proof/Machine/Control.lean ====
section
/-! DEFINITION. The control family: NOP and the reserved opcodes (spec 44_control.md). -/

namespace Sys2Proof.Machine

/-- NOP (R197). -/
def execNop (s : State) : Result := noEffect s

/-- Reserved opcode 0xA (R198): accepted, "`no effect`, exactly as NOP". -/
def execReservedA (s : State) : Result := noEffect s

/-- Reserved opcode 0xB (R198): accepted, "`no effect`, exactly as NOP". -/
def execReservedB (s : State) : Result := noEffect s

/-- Reserved opcode 0xC (R198): accepted, "`no effect`, exactly as NOP". -/
def execReservedC (s : State) : Result := noEffect s

/-- Reserved opcode 0xD (R198): accepted, "`no effect`, exactly as NOP". -/
def execReservedD (s : State) : Result := noEffect s

/-- Reserved opcode 0xE (R198): accepted, "`no effect`, exactly as NOP". -/
def execReservedE (s : State) : Result := noEffect s

/-- Reserved opcode 0xF (R198): accepted, "`no effect`, exactly as NOP". -/
def execReservedF (s : State) : Result := noEffect s

end Sys2Proof.Machine
end

