-- ==== Sys2Proof/Machine/Device.lean ====
section
/-! DEFINITION. The FRAME16 family: what the device does with a frame it latches, one register write each (R47, R50 to
R56, log entry 6). -/

namespace Sys2Proof.Machine

/-- F_ROW0: the device's register 0x01, display row 0 (R56), takes the value. -/
def execFRow0 (val : Byte) (s : State) : Result := .next (s.latchPair 0x01 val)

/-- F_ROW1: the device's register 0x02, display row 1 (R56), takes the value. -/
def execFRow1 (val : Byte) (s : State) : Result := .next (s.latchPair 0x02 val)

/-- F_ROW2: the device's register 0x03, display row 2 (R56), takes the value. -/
def execFRow2 (val : Byte) (s : State) : Result := .next (s.latchPair 0x03 val)

/-- F_ROW3: the device's register 0x04, display row 3 (R56), takes the value. -/
def execFRow3 (val : Byte) (s : State) : Result := .next (s.latchPair 0x04 val)

/-- F_ROW4: the device's register 0x05, display row 4 (R56), takes the value. -/
def execFRow4 (val : Byte) (s : State) : Result := .next (s.latchPair 0x05 val)

/-- F_ROW5: the device's register 0x06, display row 5 (R56), takes the value. -/
def execFRow5 (val : Byte) (s : State) : Result := .next (s.latchPair 0x06 val)

/-- F_ROW6: the device's register 0x07, display row 6 (R56), takes the value. -/
def execFRow6 (val : Byte) (s : State) : Result := .next (s.latchPair 0x07 val)

/-- F_ROW7: the device's register 0x08, display row 7 (R56), takes the value. -/
def execFRow7 (val : Byte) (s : State) : Result := .next (s.latchPair 0x08 val)

/-- F_DECODE: the device's register 0x09, the decode mode (R51), takes the value. -/
def execFDecode (val : Byte) (s : State) : Result := .next (s.latchPair 0x09 val)

/-- F_INTENSITY: the device's register 0x0A, the intensity (R52), takes the value. -/
def execFIntensity (val : Byte) (s : State) : Result := .next (s.latchPair 0x0A val)

/-- F_SCANLIMIT: the device's register 0x0B, the scan limit (R53), takes the value. -/
def execFScanLimit (val : Byte) (s : State) : Result := .next (s.latchPair 0x0B val)

/-- F_SHUTDOWN: the device's register 0x0C, the shutdown register (R54), takes the value. -/
def execFShutdown (val : Byte) (s : State) : Result := .next (s.latchPair 0x0C val)

/-- F_DISPTEST: the device's register 0x0F, the display-test register (R55), takes the value. -/
def execFDispTest (val : Byte) (s : State) : Result := .next (s.latchPair 0x0F val)

end Sys2Proof.Machine
end

