-- ==== Sys2Proof/Machine/Display.lean ====
section
/-! DEFINITION. The display family: SET_PIXEL, SET_ROW, CLEAR and the pseudo-instruction SET_FRAME (spec
41_display.md). -/

namespace Sys2Proof.Machine

/-- SET_PIXEL (R120): no effect when the row or the column is out of range. -/
def execSetPixel (row col : Byte) (on : Bool) (s : State) : Result :=
  match displayIndex? row, displayIndex? col with
  | some r, some c => .next (s.setPixelAt r c on)
  | _, _ => noEffect s

/-- SET_ROW (R121). -/
def execSetRow (row value : Byte) (s : State) : Result := .next (s.setRowAt row value)

/-- CLEAR (R122). -/
def execClear (s : State) : Result := .next s.clearRows

/-- The next of a run of commands: the host offers it once everything pending has been performed (R191). -/
def State.thenSetRow (s : State) (row value : Byte) : State := s.settle.setRowAt row value

/-- SET_FRAME (R83, R123): "the effect of the eight commands run one after another", in ascending row order. The state
is the one right after the eighth SET_ROW is accepted (log entry 7). -/
def execSetFrame (v0 v1 v2 v3 v4 v5 v6 v7 : Byte) (s : State) : Result :=
  .next ((((((((s.setRowAt 0 v0).thenSetRow 1 v1).thenSetRow 2 v2).thenSetRow 3 v3).thenSetRow 4 v4).thenSetRow
    5 v5).thenSetRow 6 v6).thenSetRow 7 v7)

end Sys2Proof.Machine
end

