-- ==== Sys2Proof/Machine/Game.lean ====
section
/-! DEFINITION. The game family: GAME_INIT, PLAY_AT and EVALUATE (spec 42_game.md). -/

namespace Sys2Proof.Machine

/-- GAME_INIT (R140): game state alone; the display keeps the old marks. -/
def execGameInit (s : State) : Result := .next s.newGame

/-- PLAY_AT for coordinates in range: guards G2 (the game is over) and G3 (the cell is taken), then the move (R141). -/
def playInRange (i j : Fin 3) (s : State) : Result :=
  if s.outcome ≠ .inProgress then noEffect s
  else if s.cell (boardIndex i j) ≠ .empty then noEffect s
  else .next (s.acceptMove i j)

/-- PLAY_AT (R141): guard G1, then the rest. -/
def execPlayAt (row col : Byte) (s : State) : Result :=
  match boardCoord? row, boardCoord? col with
  | some i, some j => playInRange i j s
  | _, _ => noEffect s

/-- EVALUATE (R146): the evaluate operation by itself. -/
def execEvaluate (s : State) : Result := .next s.evaluate

end Sys2Proof.Machine
end

