-- ==== Sys2Proof/Machine/Input.lean ====
section
/-! DEFINITION. The input family: AWAIT_MOVE and the sampling of the position bus (spec 43_input.md). -/

namespace Sys2Proof.Machine

/-- AWAIT_MOVE at its acceptance: it only sets WAITING; the samples follow, one a step (R174, R193). -/
def execAwaitMove (s : State) : Result := .next (s.setWaiting true)

/-- One sample of a waiting AWAIT_MOVE (R174, R194): the sentinel keeps it waiting; any other position ends the wait
and is played as PLAY_AT. -/
def takeSample (i : StepInput) (s : State) : Result :=
  let p := decodePosition i.posBus i.posOvr i.draw
  if p = 0#4 then noEffect s
  else execPlayAt (posToRowCol p).1 (posToRowCol p).2 (s.setWaiting false)

end Sys2Proof.Machine
end

