-- ==== Sys2Proof/Machine/Serial.lean ====
section
/-! DEFINITION. The serial family: WRITE_REG and DEV_INIT (spec 40_serial.md). -/

namespace Sys2Proof.Machine

/-- WRITE_REG (R101): one frame, any address and value, the row cache untouched. -/
def execWriteReg (address value : Byte) (s : State) : Result := .next (s.sendFrame address value)

/-- DEV_INIT (R102): decode mode, scan limit, shutdown, display test; CLEAR; intensity masked to its low 4 bits. -/
def execDevInit (level : Byte) (s : State) : Result :=
  .next ((((((s.sendFrame 0x09 0x00).sendFrame 0x0B 0x07).sendFrame 0x0C 0x01).sendFrame 0x0F 0x00).clearRows).sendFrame
    0x0A (intensityValue level))

end Sys2Proof.Machine
end

