-- ==== Sys2Proof/Machine/Dispatch.lean ====
section
/-! DEFINITION. What each instruction does: one arm per constructor. -/

namespace Sys2Proof.Machine

def exec (i : Instr) (s : State) : Host.Outcome State Fault Refusal :=
  match i with
  | .nop => Sys2Proof.Machine.execNop s
  | .writeReg a v => Sys2Proof.Machine.execWriteReg a v s
  | .devInit l => Sys2Proof.Machine.execDevInit l s
  | .setPixel r c on => Sys2Proof.Machine.execSetPixel r c on s
  | .setRow r v => Sys2Proof.Machine.execSetRow r v s
  | .clear => Sys2Proof.Machine.execClear s
  | .gameInit => Sys2Proof.Machine.execGameInit s
  | .playAt r c => Sys2Proof.Machine.execPlayAt r c s
  | .evaluate => Sys2Proof.Machine.execEvaluate s
  | .awaitMove => Sys2Proof.Machine.execAwaitMove s
  | .reservedA => Sys2Proof.Machine.execReservedA s
  | .reservedB => Sys2Proof.Machine.execReservedB s
  | .reservedC => Sys2Proof.Machine.execReservedC s
  | .reservedD => Sys2Proof.Machine.execReservedD s
  | .reservedE => Sys2Proof.Machine.execReservedE s
  | .reservedF => Sys2Proof.Machine.execReservedF s
  | .setFrame v0 v1 v2 v3 v4 v5 v6 v7 => Sys2Proof.Machine.execSetFrame v0 v1 v2 v3 v4 v5 v6 v7 s
  | .fRow0 v => Sys2Proof.Machine.execFRow0 v s
  | .fRow1 v => Sys2Proof.Machine.execFRow1 v s
  | .fRow2 v => Sys2Proof.Machine.execFRow2 v s
  | .fRow3 v => Sys2Proof.Machine.execFRow3 v s
  | .fRow4 v => Sys2Proof.Machine.execFRow4 v s
  | .fRow5 v => Sys2Proof.Machine.execFRow5 v s
  | .fRow6 v => Sys2Proof.Machine.execFRow6 v s
  | .fRow7 v => Sys2Proof.Machine.execFRow7 v s
  | .fDecode v => Sys2Proof.Machine.execFDecode v s
  | .fIntensity v => Sys2Proof.Machine.execFIntensity v s
  | .fScanLimit v => Sys2Proof.Machine.execFScanLimit v s
  | .fShutdown v => Sys2Proof.Machine.execFShutdown v s
  | .fDispTest v => Sys2Proof.Machine.execFDispTest v s

end Sys2Proof.Machine
end

