-- ==== Sys2Proof/Machine/Cycle.lean ====
section
/-! DEFINITION. The five branches of the step relation (R194): reset, drain, sample, accept, idle. -/

namespace Sys2Proof.Machine

/-- CS has risen: the device executes the frame its shift register holds. Where the frame's address is in the table
of R50 that is the FRAME16 instruction of that address; every other address is stored all the same (R47, U6). -/
def runLatched (s : State) : Result :=
  match decodeFrame s.sh with
  | .ok i => exec i s
  | .error _ => .next s.latch

/-- `rst = 1` (R240): the block takes its reset values. The lines jump; where CS was low its jump to 1 is a rising edge
and latches, and CLOCK can only fall, which shifts nothing (R256). -/
def resetCycle (s : State) : Result :=
  if s.cs then .next s.resetBlock else runLatched s.resetBlock

/-- PEND is not empty (R194, R195): perform its first event. -/
def drainCycle (e : LineEvent) (rest : List LineEvent) (s : State) : Result :=
  let t : State := { s with pend := rest }
  if isLatchEdge s e then runLatched (t.moveLine e) else .next (t.moveLine e)

/-- A command is accepted (R193): it runs to completion within the step. -/
def acceptCycle (w : CmdWord) (s : State) : Result := exec (decodeCmd w) s

/-- The step relation, given the step's inputs (R194): reset over everything, then draining, sampling, accepting,
idling. -/
def cycle (i : StepInput) (s : State) : Result :=
  if i.rst then resetCycle s
  else match s.pend with
    | e :: rest => drainCycle e rest s
    | [] =>
      if s.waiting then takeSample i s
      else if i.cmdValid then acceptCycle i.cmd s
      else noEffect s

/-! ## Placing an instruction where a step fetches it (log entry 8) -/

/-- The host offers a command word, with `rst = 0` and the position lines at rest. -/
def offer (w : CmdWord) : StepInput := ⟨false, true, w, 0, false, 0⟩

/-- Nothing happens outside: no reset, no command, the position lines at rest. -/
def silence : StepInput := ⟨false, false, 0, 0, false, 0⟩

/-- The block is idle and the host offers the word in the next step (R191). -/
def State.withCommand (s : State) (w : CmdWord) : State :=
  { s with pend := [], waiting := false, inputs := offer w :: s.inputs }

/-- The device's shift register holds the frame word and the CS pulse is about to rise: event 51 of a frame (R100),
where the device latches (R47). -/
def State.withFrame (s : State) (w : FrameWord) : State :=
  { s with sh := w, cs := false, pend := [⟨.cs, true⟩], inputs := silence :: s.inputs }

/-- The host runs a list of commands that send one frame each: it offers each word for 52 steps, the one that accepts
it and the 51 that send the frame (R196). -/
def offersOfRows (ws : List CmdWord) : List StepInput := ws.flatMap fun w => List.replicate 52 (offer w)

/-- The block is idle and the host offers the eight words of SET_FRAME one after another (R83). -/
def State.withExpansion (s : State) (ws : List CmdWord) : State :=
  { s with pend := [], waiting := false, inputs := offersOfRows ws ++ s.inputs }

end Sys2Proof.Machine
end

