-- ==== Sys2Proof/Machine/Step.lean ====
section
/-! DEFINITION. One step of the machine (R194), and the placing of an instruction for the next step. -/

namespace Sys2Proof.Machine

/-- One step: take the step's inputs, then the one branch of R194 that they and the state select. -/
def step (s : State) : Host.Outcome State Fault Refusal := cycle s.takeInput.1 s.takeInput.2

/-- The state whose next step runs the instruction with these bits: a 16-bit instruction is a frame word the device is
about to latch, 192 bits are the words of SET_FRAME, and any other is a command word the host offers (log entry
8). -/
def State.withFetchWord (s : State) (nbits w : Nat) : State :=
  match nbits with
  | 16 => s.withFrame (BitVec.ofNat 16 w)
  | 192 => s.withExpansion (wordsOf 8 w)
  | _ => s.withCommand (BitVec.ofNat 24 w)

end Sys2Proof.Machine
end

