-- ==== Sys2Proof/Machine/Picture.lean ====
section
/-! DEFINITION. What is seen on the matrix as far as the spec says it (R57), and the picture of a board (R148). -/

namespace Sys2Proof.Machine

/-- The four settings under which the spec says what is shown: decode mode 0x00, scan limit 7, shutdown 1, display
test 0 (R57). -/
def State.showsRows (s : State) : Bool :=
  s.dev.read 0x09 == 0x00#8 && s.dev.read 0x0B == 0x07#8 && s.dev.read 0x0C == 0x01#8 && s.dev.read 0x0F == 0x00#8

/-- Is the pixel at row `r`, column `c` of the matrix lit? `none` where the spec does not say: "in any other setting of
those four registers … a model must make no claim about lit pixels" (R57). A setting or a row that no frame has written is
a free byte, of which nothing can be proved (log entries 4, 20).

DESIGN CHOICE (log entry 25): a frame to an address outside the table of R50 changes its own register and none of what is
claimed here. R57 makes the claim depend on the four settings alone; U6 and N9 leave open what the real device does with
such a frame, and say that it must not be taken as harmless, ignored or aliased.

DESIGN CHOICE (log entry 26): the device registers keep their bytes through shutdown, and through any other setting of the
four registers, so that once the settings of R57 are back the pixels of the rows kept are claimed. This follows the receiver
of R47; "what the device keeps or shows in shutdown is not in the source" (R223, N9). -/
def State.pixelLit? (s : State) (r c : Fin 8) : Option Bool :=
  if s.showsRows then some ((s.dev.read (rowAddress r)).getLsbD (7 - c.val)) else none

/-- The table of R148: what a cell in board column `j` contributes to the first (`top`) or the second display row of
its board row. -/
def pictureByte (m : Cell) (top : Bool) (j : Fin 3) : Byte :=
  match m, top with
  | .empty, _ => 0x00#8
  | .player1, _ => 0xC0#8 >>> (3 * j.val)
  | .player2, true => 0x80#8 >>> (3 * j.val)
  | .player2, false => 0x40#8 >>> (3 * j.val)

/-- `pixels(B)`, one display row (R148): the bitwise OR of the contributions of the cells in board row `r / 3` when
`r % 3` is 0 or 1; rows 2 and 5 are dark. -/
def pictureRow (cells : Vector Cell 9) (r : Fin 8) : Byte :=
  if r.val % 3 = 2 then 0x00#8
  else
    let i : Fin 3 := ⟨r.val / 3, by omega⟩
    let top : Bool := r.val % 3 == 0
    pictureByte cells[boardIndex i 0] top 0 ||| pictureByte cells[boardIndex i 1] top 1
      ||| pictureByte cells[boardIndex i 2] top 2

end Sys2Proof.Machine
end

