-- ==== Sys2Proof/Machine/Ports.lean ====
section
/-! DEFINITION. The output ports (R24, R26): functions of the state at the current step. Nothing in the block reads
them. -/

namespace Sys2Proof.Machine

/-- The number of a Cell on the status port (R80). -/
def Cell.code : Cell → BitVec 2
  | .empty => 0b00
  | .player1 => 0b01
  | .player2 => 0b10

/-- The number of nextPlayer on the status port (R80). -/
def Player.code : Player → BitVec 1
  | .player1 => 0
  | .player2 => 1

/-- The number of outcome on the status port (R80). -/
def GameOutcome.code : GameOutcome → BitVec 2
  | .inProgress => 0b00
  | .player1Wins => 0b01
  | .player2Wins => 0b10
  | .draw => 0b11

/-- `cmd_ready`: 1 exactly when PEND is empty and WAITING = 0 (R26, R191). -/
def State.cmdReady (s : State) : Bool := s.pend.isEmpty && !s.waiting

/-- `turn_p1` (R24); 0 in a terminal state. -/
def State.turnP1 (s : State) : Bool := s.outcome == .inProgress && s.nextPlayer == .player1

/-- `turn_p2` (R24); 0 in a terminal state. -/
def State.turnP2 (s : State) : Bool := s.outcome == .inProgress && s.nextPlayer == .player2

/-- `st_outcome` (R26). -/
def State.stOutcome (s : State) : BitVec 2 := s.outcome.code

/-- `st_next` (R26). -/
def State.stNext (s : State) : BitVec 1 := s.nextPlayer.code

/-- `st_moves` (R26). -/
def State.stMoves (s : State) : BitVec 4 := s.moves

/-- `st_board`: cell `k` in bits `2k+1:2k` (R26). -/
def State.stBoard (s : State) : BitVec 18 :=
  (s.cell 8).code ++ (s.cell 7).code ++ (s.cell 6).code ++ (s.cell 5).code ++ (s.cell 4).code ++ (s.cell 3).code
    ++ (s.cell 2).code ++ (s.cell 1).code ++ (s.cell 0).code

/-- `st_rows`: row `r` in bits `8r+7:8r` (R26). -/
def State.stRows (s : State) : BitVec 64 :=
  s.row 7 ++ s.row 6 ++ s.row 5 ++ s.row 4 ++ s.row 3 ++ s.row 2 ++ s.row 1 ++ s.row 0

/-- All output ports of the block (R26). -/
structure Outputs where
  data : Bool
  clock : Bool
  cs : Bool
  turnP1 : Bool
  turnP2 : Bool
  cmdReady : Bool
  stOutcome : BitVec 2
  stNext : BitVec 1
  stMoves : BitVec 4
  stBoard : BitVec 18
  stRows : BitVec 64
  deriving DecidableEq, Repr

/-- "The outputs … are functions of `S` at the start of the step" (R194). -/
def State.outputs (s : State) : Outputs where
  data := s.data
  clock := s.clock
  cs := s.cs
  turnP1 := s.turnP1
  turnP2 := s.turnP2
  cmdReady := s.cmdReady
  stOutcome := s.stOutcome
  stNext := s.stNext
  stMoves := s.stMoves
  stBoard := s.stBoard
  stRows := s.stRows

end Sys2Proof.Machine
end

