-- ==== Sys2Proof/Machine/Trace.lean ====
section
/-! DEFINITION. The traces of a run (R200): line events performed, levels of the lines, pairs the receiver writes, and the
frames that the run's commands call. -/

namespace Sys2Proof.Machine

/-- Collect what each of `k` steps shows, given the step's inputs, the state before and the state after. -/
def traceOf {α : Type} (f : StepInput → State → State → List α) : Nat → State → List α
  | 0, _ => []
  | k + 1, s =>
    match step s with
    | .next t => f s.takeInput.1 s t ++ traceOf f k t
    | .fault _ => []
    | .refused _ => []

/-- The line event a step performs, if it performs one: the head of PEND unless `rst = 1` (R194). -/
def performedEvent (i : StepInput) (s : State) : List LineEvent := if i.rst then [] else s.pend.head?.toList

/-- The pair the reference receiver writes in a step, if CS rises in it: by an event (R47), or by a reset while CS is
low (R256). -/
def latchedPair (i : StepInput) (s : State) : List (Byte × Byte) :=
  let rises : Bool := if i.rst then !s.cs else s.pend.head?.any (isLatchEdge s)
  if rises then [(s.sh.extractLsb' 8 8, s.sh.extractLsb' 0 8)] else []

/-- The event trace: "the list of line events performed, in order" (R200). -/
def eventTrace : Nat → State → List LineEvent := traceOf fun i s _ => performedEvent i s

/-- The level trace: "the values of `(DATA, CLOCK, CS)` after each step" (R200). -/
def levelTrace : Nat → State → List (Bool × Bool × Bool) := traceOf fun _ _ t => [(t.data, t.clock, t.cs)]

/-- The frame trace: "the list of pairs `(a, v)` the reference receiver … writes, in order" (R200). -/
def frameTrace : Nat → State → List (Byte × Byte) := traceOf fun i s _ => latchedPair i s

/-! ## The frames a command calls -/

/-- The frames of a list of pixels lit one after another: each carries its row as the pixels up to it have left it
(R147). -/
def pixelCalls : List (Fin 8 × Fin 8) → State → List (Byte × Byte)
  | [], _ => []
  | p :: ps, s => (rowAddress p.1, withPixel (s.row p.1) p.2 true) :: pixelCalls ps (s.setPixelAt p.1 p.2 true)

/-- The calls `frame(a, v)` that a command's rule makes, in its order, as pairs (R101, R102, R120 to R123, R147). A frame
of the device calls none. -/
def frameCalls (i : Instr) (s : State) : List (Byte × Byte) :=
  match i with
  | .writeReg a v => [(a, v)]
  | .devInit l =>
    [(0x09, 0x00), (0x0B, 0x07), (0x0C, 0x01), (0x0F, 0x00)] ++ displayRows.map (fun r => (rowAddress r, 0x00#8))
      ++ [(0x0A, intensityValue l)]
  | .setPixel row col on =>
    match displayIndex? row, displayIndex? col with
    | some r, some c => [(rowAddress r, withPixel (s.row r) c on)]
    | _, _ => []
  | .setRow row v =>
    match displayIndex? row with
    | some r => [(rowAddress r, v)]
    | none => []
  | .clear => displayRows.map fun r => (rowAddress r, 0x00#8)
  | .setFrame v0 v1 v2 v3 v4 v5 v6 v7 =>
    [(0x01, v0), (0x02, v1), (0x03, v2), (0x04, v3), (0x05, v4), (0x06, v5), (0x07, v6), (0x08, v7)]
  | .playAt row col =>
    match boardCoord? row, boardCoord? col with
    | some i, some j =>
      if s.outcome = .inProgress ∧ s.cell (boardIndex i j) = .empty
      then pixelCalls (markPixels s.nextPlayer.mark i j) s
      else []
    | _, _ => []
  | .nop | .gameInit | .evaluate | .awaitMove | .reservedA | .reservedB | .reservedC | .reservedD | .reservedE
  | .reservedF | .fRow0 _ | .fRow1 _ | .fRow2 _ | .fRow3 _ | .fRow4 _ | .fRow5 _ | .fRow6 _ | .fRow7 _ | .fDecode _
  | .fIntensity _ | .fScanLimit _ | .fShutdown _ | .fDispTest _ => []

/-- The calls a step makes: those of the command it accepts, or of the move its sample plays (R193, R194). -/
def stepCalls (i : StepInput) (s : State) : List (Byte × Byte) :=
  if i.rst || !s.pend.isEmpty then []
  else if s.waiting then
    let p := decodePosition i.posBus i.posOvr i.draw
    if p = 0#4 then [] else frameCalls (.playAt (posToRowCol p).1 (posToRowCol p).2) s
  else if i.cmdValid then frameCalls (decodeCmd i.cmd) s
  else []

/-- "The list of `frame` calls made by the accepted commands, in program order" (R200). -/
def callTrace : Nat → State → List (Byte × Byte) := traceOf fun i s _ => stepCalls i s

end Sys2Proof.Machine
end

