-- ==== Sys2Proof/Safety.lean ====
section
/-! DEFINITION. What the statements speak of: the parts of a state that an instruction leaves alone, the invariants of
the game (R22), and the properties of the link and the display (R12, R105, R148). -/

namespace Sys2Proof.Machine

/-! ## Frames -/

/-- Same board, move count, next player and outcome. -/
def SameGame (s t : State) : Prop :=
  t.cells = s.cells ∧ t.moves = s.moves ∧ t.nextPlayer = s.nextPlayer ∧ t.outcome = s.outcome

/-- Same levels of the three lines. -/
def SameLines (s t : State) : Prop := t.data = s.data ∧ t.clock = s.clock ∧ t.cs = s.cs

/-- Same shift register, and every device register reads as before. -/
def SameDevice (s t : State) : Prop := t.sh = s.sh ∧ ∀ a, t.dev.read a = s.dev.read a

/-- The inputs of the coming steps are the same. -/
def SameInputs (s t : State) : Prop := t.inputs = s.inputs ∧ t.tick = s.tick

/-- The block is idle: `cmd_ready = 1` (R191). -/
def Idle (s : State) : Prop := s.pend = [] ∧ s.waiting = false

/-! ## The game -/

/-- How many cells hold a value. -/
def cellCount (cells : Vector Cell 9) (c : Cell) : Nat := cells.toList.count c

/-- Some line of R144 is all the player's. -/
abbrev HasLine (cells : Vector Cell 9) (p : Player) : Prop :=
  ∃ l ∈ boardLines, cells[l.1] = p.mark ∧ cells[l.2.1] = p.mark ∧ cells[l.2.2] = p.mark

/-- The invariants I3 and I5 to I9 of R22, and what makes them inductive: a game that is won has lines of one player
only, a drawn game has none, and a full board is not in progress (R153, R154). -/
structure GameInv (s : State) : Prop where
  /-- I3. -/
  earlyInProgress : s.moves < 5#4 → s.outcome = .inProgress
  /-- I5. -/
  movesCountMarks : s.moves.toNat + cellCount s.cells .empty = 9
  /-- I6. -/
  turnByParity : s.nextPlayer = .player1 ↔ s.moves.toNat % 2 = 0
  /-- I7, Player1. -/
  player1Marks : cellCount s.cells .player1 = (s.moves.toNat + 1) / 2
  /-- I7, Player2. -/
  player2Marks : cellCount s.cells .player2 = s.moves.toNat / 2
  /-- I8, Draw. -/
  drawIsFull : s.outcome = .draw → s.moves = 9#4 ∧ ¬ HasLine s.cells .player1 ∧ ¬ HasLine s.cells .player2
  /-- I8, Player1Wins. -/
  player1Won : s.outcome = .player1Wins → HasLine s.cells .player1 ∧ ¬ HasLine s.cells .player2
  /-- I8, Player2Wins. -/
  player2Won : s.outcome = .player2Wins → HasLine s.cells .player2 ∧ ¬ HasLine s.cells .player1
  /-- I9. -/
  inProgressIsOpen : s.outcome = .inProgress →
    s.moves < 9#4 ∧ ¬ HasLine s.cells .player1 ∧ ¬ HasLine s.cells .player2

/-- From `s` to `t` one move was accepted: one Empty cell took the mark of NEXT, MOVES went up by one, and NEXT
flipped (R142, R149). -/
def OneMove (s t : State) : Prop :=
  s.outcome = .inProgress ∧ t.moves = s.moves + 1#4 ∧ t.nextPlayer = s.nextPlayer.other ∧
    ∃ k : Fin 9, s.cell k = .empty ∧ t.cell k = s.nextPlayer.mark ∧ ∀ k' : Fin 9, k' ≠ k → t.cell k' = s.cell k'

/-- The game state of a new game (R140, R31). -/
def IsNewGame (s : State) : Prop :=
  (∀ k : Fin 9, s.cell k = .empty) ∧ s.moves = 0#4 ∧ s.nextPlayer = .player1 ∧ s.outcome = .inProgress

/-! ## The link and the display -/

/-- Once everything pending has been performed, CS is high: its level between frames (R105). -/
def RestsHigh (s : State) : Prop := s.settle.cs = true

/-- The mirror property (R12): once everything pending has been performed, device register `0x01 + r` holds
`ROW[r]`. -/
def Mirrors (s : State) : Prop := ∀ r : Fin 8, s.settle.dev.read (rowAddress r) = s.row r

/-- The row cache shows the board and nothing else: `ROW = pixels(CELL)` (R148). It says nothing of the matrix, which may
show something else after a reset (R241). -/
def ShowsBoard (s : State) : Prop := ∀ r : Fin 8, s.row r = pictureRow s.cells r

/-- The command writes a device row behind the cache's back: WRITE_REG with an address in 0x01 to 0x08 (R254). -/
def rawRowWrite : Instr → Prop
  | .writeReg a _ => 0x01#8 ≤ a ∧ a ≤ 0x08#8
  | _ => False

/-- The commands a game is played with once the display is blank: PLAY_AT, AWAIT_MOVE, EVALUATE, NOP (R148). -/
def playsOnly : Instr → Prop
  | .playAt _ _ | .awaitMove | .evaluate | .nop => True
  | _ => False

/-- The command a step accepts, if it accepts one (R191): `rst = 0`, `cmd_ready = 1` and `cmd_valid = 1`. -/
def acceptedCommand? (s : State) : Option Instr :=
  let i := s.takeInput.1
  if !i.rst && s.cmdReady && i.cmdValid then some (decodeCmd i.cmd) else none

/-- The step may play a move: it accepts a PLAY_AT, or it takes a sample for a waiting AWAIT_MOVE (R22 I1, R142). -/
def TriesAMove (s : State) : Prop :=
  (∃ row col, acceptedCommand? s = some (.playAt row col)) ∨
    (s.takeInput.1.rst = false ∧ s.pend = [] ∧ s.waiting = true)

/-- The step starts a new game: it is a reset, or it accepts GAME_INIT (R22 I1, R23). -/
def StartsAGame (s : State) : Prop := s.takeInput.1.rst = true ∨ acceptedCommand? s = some .gameInit

/-- `k` steps, stopping at the first fault or refusal: as `Host.Core.run` does. -/
def runSteps : Nat → State → Result
  | 0, s => .next s
  | k + 1, s =>
    match step s with
    | .next t => runSteps k t
    | .fault r => .fault r
    | .refused r => .refused r

/-- The next `k` inputs are listed, and none of them is a reset. -/
def NoReset (k : Nat) (s : State) : Prop := k ≤ s.inputs.length ∧ ∀ i ∈ s.inputs.take k, i.rst = false

end Sys2Proof.Machine
end

