-- ==== Sys2Proof/Certificates/Slice0/Obligations.lean ====
section
/-! DEFINITION. The statements for the provers. Each docstring names the rule it formalises, or says that the statement
rests on a choice of the model and which log entry records it. A command at a state that still has events pending is no
command a run accepts (R191): that its events go after the pending ones there is the model's choice (log entry 9). The
shift register and the device are those of the spec's reference receiver (R47, log entry 5), and what no frame has written
is a free value (log entries 3, 4). -/

open Sys2Proof Sys2Proof.Machine

/-! ## Encodings -/

/-- Decoding what the encoder writes gives the instruction back, for every instruction of the three formats and every
operand (R70, R74, R83, R84). -/
def Obligations.DecodeOfEncodeIsTheInstruction : Prop :=
  ∀ i : Instr, decode (encode i) = .ok i

/-- R84, whole: `op` selects the row of R75 with `a`, `b` and `on` in their places; decoding is total; encoding is its
inverse on the words whose unused fields are zero; words that differ only in unused fields decode alike. -/
def Obligations.DecodingLawOfCommandWords : Prop :=
  (∀ (f : BitVec 4) (a b : Byte),
    decodeCmd (cmdWord 0x0 f a b) = .nop ∧
    decodeCmd (cmdWord 0x1 f a b) = .writeReg a b ∧
    decodeCmd (cmdWord 0x2 f a b) = .devInit b ∧
    decodeCmd (cmdWord 0x3 f a b) = .setPixel a b (f.getLsbD 0) ∧
    decodeCmd (cmdWord 0x4 f a b) = .setRow a b ∧
    decodeCmd (cmdWord 0x5 f a b) = .clear ∧
    decodeCmd (cmdWord 0x6 f a b) = .gameInit ∧
    decodeCmd (cmdWord 0x7 f a b) = .playAt a b ∧
    decodeCmd (cmdWord 0x8 f a b) = .evaluate ∧
    decodeCmd (cmdWord 0x9 f a b) = .awaitMove ∧
    decodeCmd (cmdWord 0xA f a b) = .reservedA ∧
    decodeCmd (cmdWord 0xB f a b) = .reservedB ∧
    decodeCmd (cmdWord 0xC f a b) = .reservedC ∧
    decodeCmd (cmdWord 0xD f a b) = .reservedD ∧
    decodeCmd (cmdWord 0xE f a b) = .reservedE ∧
    decodeCmd (cmdWord 0xF f a b) = .reservedF) ∧
  (∀ w : CmdWord, ∃ i, decode (.cmd w) = .ok i) ∧
  (∀ w : CmdWord, w = cmdWord (w.extractLsb' 20 4) (w.extractLsb' 16 4) (w.extractLsb' 8 8) (w.extractLsb' 0 8)) ∧
  (∀ w : CmdWord, CmdWord.canonical w = true → encode (decodeCmd w) = .cmd w) ∧
  (∀ w w' : CmdWord, w.extractLsb' 20 4 = w'.extractLsb' 20 4 →
    w &&& ~~~(unusedMask (w.extractLsb' 20 4)) = w' &&& ~~~(unusedMask (w.extractLsb' 20 4)) →
    decodeCmd w = decodeCmd w')

/-- R72's decoder of the wire: a frame word decodes to the row of its address with its value, and to nothing exactly
when the address is in no row. -/
def Obligations.FrameWordDecodesByAddress : Prop :=
  ∀ (a v : Byte),
    decode (.frame (frameWord a v)) =
      if a = 0x01 then .ok (.fRow0 v) else if a = 0x02 then .ok (.fRow1 v) else if a = 0x03 then .ok (.fRow2 v)
      else if a = 0x04 then .ok (.fRow3 v) else if a = 0x05 then .ok (.fRow4 v) else if a = 0x06 then .ok (.fRow5 v)
      else if a = 0x07 then .ok (.fRow6 v) else if a = 0x08 then .ok (.fRow7 v) else if a = 0x09 then .ok (.fDecode v)
      else if a = 0x0A then .ok (.fIntensity v) else if a = 0x0B then .ok (.fScanLimit v)
      else if a = 0x0C then .ok (.fShutdown v) else if a = 0x0F then .ok (.fDispTest v)
      else .error .unlistedDeviceAddress

/-- Words the spec writes out (R82, R83, 95_test_vectors.md) decode to the instructions they stand for. -/
def Obligations.WordsOfTheSpecDecode : Prop :=
  decode (.cmd 0x100C01) = .ok (.writeReg 0x0C 0x01) ∧
  decode (.cmd 0x20001F) = .ok (.devInit 0x1F) ∧
  decode (.cmd 0x310302) = .ok (.setPixel 3 2 true) ∧
  decode (.cmd 0x400081) = .ok (.setRow 0 0x81) ∧
  decode (.cmd 0x700101) = .ok (.playAt 1 1) ∧
  decode (.cmd 0x900000) = .ok .awaitMove ∧
  decode (.cmd 0xF12345) = .ok .reservedF ∧
  decode (.frame 0x0A0F) = .ok (.fIntensity 0x0F) ∧
  decode (.expansion [0x400081, 0x400142, 0x400224, 0x400318, 0x400418, 0x400524, 0x400642, 0x400781])
    = .ok (.setFrame 0x81 0x42 0x24 0x18 0x18 0x24 0x42 0x81)

/-! ## The serial frame -/

/-- R100, whole: the 51 events in order, and the levels after the frame. -/
def Obligations.FrameIsTheFiftyOneEvents : Prop :=
  ∀ (a v : Byte),
    (frame a v).length = 51 ∧
    (frame a v)[0]? = some ⟨.cs, true⟩ ∧
    (∀ n : Nat, n < 8 →
      (frame a v)[3 * n + 1]? = some ⟨.data, a.getLsbD (7 - n)⟩ ∧
      (frame a v)[3 * n + 2]? = some ⟨.clock, false⟩ ∧
      (frame a v)[3 * n + 3]? = some ⟨.clock, true⟩ ∧
      (frame a v)[3 * n + 25]? = some ⟨.data, v.getLsbD (7 - n)⟩ ∧
      (frame a v)[3 * n + 26]? = some ⟨.clock, false⟩ ∧
      (frame a v)[3 * n + 27]? = some ⟨.clock, true⟩) ∧
    (frame a v)[49]? = some ⟨.cs, false⟩ ∧
    (frame a v)[50]? = some ⟨.cs, true⟩ ∧
    ∀ s : State, (s.performAll (frame a v)).cs = true ∧ (s.performAll (frame a v)).clock = true ∧
      (s.performAll (frame a v)).data = v.getLsbD 0

/-- R105: a frame started with CS high makes exactly one device write, of the right pair, and leaves `SH = {a, v}`,
whatever the other lines, the shift register and the device held; nothing else of the state moves. -/
def Obligations.FrameFromHighCsWritesItsPair : Prop :=
  ∀ (a v : Byte) (s : State), s.cs = true →
    ∃ t, s.performAll (frame a v) = t ∧ t.sh = frameWord a v ∧
      t.dev.read a = v ∧ (∀ a' : Byte, a' ≠ a → t.dev.read a' = s.dev.read a') ∧
      t = { s with data := v.getLsbD 0, clock := true, cs := true, sh := t.sh, dev := t.dev }

/-- R105, last part: a frame started with CS low first stores the stale pair of the shift register, one spurious write;
then it writes its own. -/
def Obligations.FrameFromLowCsWritesAStalePairFirst : Prop :=
  ∀ (a v : Byte) (s : State), s.cs = false →
    (s.perform ⟨.cs, true⟩).dev.read (s.sh.extractLsb' 8 8) = (s.sh.extractLsb' 0 8) ∧
    (s.performAll (frame a v)).sh = frameWord a v ∧
    (∀ a' : Byte, (s.performAll (frame a v)).dev.read a' =
      if a' = a then v else if a' = s.sh.extractLsb' 8 8 then (s.sh.extractLsb' 0 8)
      else s.dev.read a')

/-- R60, R49 (c): frames sent one after another are latched in the order sent, one at a time, with no merging: the
register of an address holds the value of the last frame to it, and what no frame names is unchanged. -/
def Obligations.FramesAreLatchedInOrder : Prop :=
  ∀ (ps qs : List (Byte × Byte)) (a v : Byte) (s : State), s.cs = true → (∀ q ∈ qs, q.1 ≠ a) →
    (s.performAll (frames (ps ++ (a, v) :: qs))).dev.read a = v ∧
    (s.performAll (frames qs)).dev.read a = s.dev.read a ∧
    (s.performAll (frames qs)).cs = true

/-- The pending frame reaches the device in 51 steps: each step without a reset performs one event, and after the
frame's last the device holds the pair (R195, R196, R105). -/
def Obligations.PendingFrameIsDeliveredInFiftyOneSteps : Prop :=
  ∀ (a v : Byte) (rest : List LineEvent) (s : State),
    s.pend = frame a v ++ rest → s.cs = true → NoReset 51 s →
    ∃ t, runSteps 51 s = .next t ∧ t.pend = rest ∧ t.inputs = s.inputs.drop 51 ∧ t.sh = frameWord a v ∧
      t.dev.read a = v ∧ (∀ a' : Byte, a' ≠ a → t.dev.read a' = s.dev.read a') ∧
      t.rows = s.rows ∧ SameGame s t ∧ t.waiting = s.waiting ∧ t.cs = true ∧ t.clock = true ∧ t.data = v.getLsbD 0

/-! ## The serial commands -/

/-- WRITE_REG (R101): one frame, of the operands as given; nothing else changes. Where events are pending, that the frame
goes after them is the model's choice (log entry 9). -/
def Obligations.WriteRegSendsOneFrame : Prop :=
  ∀ (address value : Byte) (s : State),
    exec (.writeReg address value) s = .next { s with pend := s.pend ++ frame address value }

/-- What WRITE_REG stores, once its frame is out: the byte at the address given, and no other register changes
(R101, R105; the receiver of log entry 5, and log entry 9 where events are pending). -/
def Obligations.WriteRegStoresAtItsAddress : Prop :=
  ∀ (address value : Byte) (s : State), RestsHigh s →
    ∃ t, exec (.writeReg address value) s = .next t ∧
      t.settle.dev.read address = value ∧
      (∀ a : Byte, a ≠ address → t.settle.dev.read a = s.settle.dev.read a) ∧
      t.settle.rows = s.rows ∧ SameGame s t.settle

/-- DEV_INIT (R102): the thirteen frames in the order of the rule, the intensity masked, the cache zeroed, and nothing
else changed; 663 events; levels that agree in their low four bits send the same. Where events are pending, that the frames
go after them is the model's choice (log entry 9). -/
def Obligations.DevInitSendsTheThirteenFrames : Prop :=
  (∀ (level : Byte) (s : State),
    exec (.devInit level) s = .next
      { s with
        rows := Vector.replicate 8 0x00#8
        pend := s.pend ++ frames [(0x09, 0x00), (0x0B, 0x07), (0x0C, 0x01), (0x0F, 0x00), (0x01, 0x00), (0x02, 0x00),
          (0x03, 0x00), (0x04, 0x00), (0x05, 0x00), (0x06, 0x00), (0x07, 0x00), (0x08, 0x00),
          (0x0A, level &&& 0x0F#8)] }) ∧
  (∀ (level : Byte) (s t : State), s.pend = [] → exec (.devInit level) s = .next t → t.pend.length = 663) ∧
  ∀ (s : State), exec (.devInit 0x1F) s = exec (.devInit 0x0F) s

/-- After DEV_INIT has been sent the device holds its settings and blank rows (R246), and every register that no frame
names is as it was. Where events are pending, that its frames go after them is the model's choice (log entry 9); the device
is the reference receiver (log entry 5). -/
def Obligations.DeviceAfterDevInit : Prop :=
  ∀ (level : Byte) (s : State), RestsHigh s →
    ∃ t, exec (.devInit level) s = .next t ∧
      t.settle.dev.read 0x09 = 0x00#8 ∧ t.settle.dev.read 0x0B = 0x07#8 ∧
      t.settle.dev.read 0x0C = 0x01#8 ∧ t.settle.dev.read 0x0F = 0x00#8 ∧
      t.settle.dev.read 0x0A = (level &&& 0x0F#8) ∧
      (∀ r : Fin 8, t.settle.dev.read (rowAddress r) = 0x00#8) ∧
      t.settle.sh = frameWord 0x0A (level &&& 0x0F#8) ∧
      (∀ a : Byte, ¬ (0x01#8 ≤ a ∧ a ≤ 0x0C#8) → a ≠ 0x0F#8 → t.settle.dev.read a = s.settle.dev.read a)

/-! ## The display commands -/

/-- SET_PIXEL in range (R120): bit `7-col` of the row takes `on`, whatever it was; one frame carries the new row; nothing
else changes. Where events are pending, that the frame goes after them is the model's choice (log entry 9). -/
def Obligations.SetPixelInRange : Prop :=
  ∀ (row col : Byte) (on : Bool) (s : State) (r c : Fin 8), row.toNat = r.val → col.toNat = c.val →
    ∃ t, exec (.setPixel row col on) s = .next t ∧
      t.row r = (if on then s.row r ||| 0x80#8 >>> c.val else s.row r &&& ~~~(0x80#8 >>> c.val)) ∧
      (∀ r' : Fin 8, r' ≠ r → t.row r' = s.row r') ∧
      t = { s with rows := t.rows, pend := s.pend ++ frame (0x01#8 + row) (t.row r) }

/-- R126: the single-bit effect of SET_PIXEL, and that two on different pixels commute in their effect on the cache. Where
events are pending, that the frame goes after them is the model's choice (log entry 9). -/
def Obligations.SetPixelChangesOneBit : Prop :=
  (∀ (row col : Byte) (on : Bool) (s : State) (r c : Fin 8), row.toNat = r.val → col.toNat = c.val →
    ∃ t, exec (.setPixel row col on) s = .next t ∧
      (∀ r' c' : Fin 8, (t.row r').getLsbD (7 - c'.val) =
        if r' = r ∧ c' = c then on else (s.row r').getLsbD (7 - c'.val)) ∧
      t.pend = s.pend ++ frame (0x01#8 + row) (t.row r)) ∧
  (∀ (row col row' col' : Byte) (on on' : Bool) (s t u t' u' : State),
    row.toNat < 8 → col.toNat < 8 → row'.toNat < 8 → col'.toNat < 8 → (row, col) ≠ (row', col') →
    exec (.setPixel row col on) s = .next t → exec (.setPixel row' col' on') t = .next u →
    exec (.setPixel row' col' on') s = .next t' → exec (.setPixel row col on) t' = .next u' → u.rows = u'.rows)

/-- R124: SET_PIXEL and SET_ROW out of range leave the whole state as it is: no cache change, no frame, no line. -/
def Obligations.OutOfRangeDisplayCommandsDoNothing : Prop :=
  (∀ (row col : Byte) (on : Bool) (s : State), 7 < row.toNat ∨ 7 < col.toNat →
    exec (.setPixel row col on) s = .next s) ∧
  (∀ (row value : Byte) (s : State), 7 < row.toNat → exec (.setRow row value) s = .next s)

/-- SET_ROW (R121): in range it replaces the row and sends it; out of range it has no effect. Where events are pending, that
the frame goes after them is the model's choice (log entry 9). -/
def Obligations.SetRowReplacesTheRow : Prop :=
  (∀ (row value : Byte) (s : State) (r : Fin 8), row.toNat = r.val →
    ∃ t, exec (.setRow row value) s = .next t ∧ t.row r = value ∧ (∀ r' : Fin 8, r' ≠ r → t.row r' = s.row r') ∧
      t = { s with rows := t.rows, pend := s.pend ++ frame (0x01#8 + row) value }) ∧
  (∀ (row value : Byte) (s : State), 7 < row.toNat → exec (.setRow row value) s = .next s)

/-- CLEAR (R122): every row 0 and eight frames in ascending order, whatever the cache held; nothing else changes. Where
events are pending, that the frames go after them is the model's choice (log entry 9). -/
def Obligations.ClearBlanksTheCache : Prop :=
  ∀ s : State, exec .clear s = .next
    { s with
      rows := Vector.replicate 8 0x00#8
      pend := s.pend ++ frames [(0x01, 0x00), (0x02, 0x00), (0x03, 0x00), (0x04, 0x00), (0x05, 0x00), (0x06, 0x00),
        (0x07, 0x00), (0x08, 0x00)] }

/-- R125: after SET_FRAME F the cached rows are exactly F, whatever the cache held, and `st_rows` shows F. The game is
untouched: R123's list of the state written is the rows alone. -/
def Obligations.SetFrameRoundTrip : Prop :=
  ∀ (v0 v1 v2 v3 v4 v5 v6 v7 : Byte) (s : State),
    ∃ t, exec (.setFrame v0 v1 v2 v3 v4 v5 v6 v7) s = .next t ∧
      t.rows = #v[v0, v1, v2, v3, v4, v5, v6, v7] ∧
      t.stRows = v7 ++ v6 ++ v5 ++ v4 ++ v3 ++ v2 ++ v1 ++ v0 ∧
      SameGame s t

/-- What SET_FRAME leaves (the model's choice of the state to answer, log entry 7): the eighth frame pending, the first
seven rows delivered to the reference receiver (log entry 5), every register but the eight row registers as it was, and
game, WAITING and inputs unchanged. Where events are pending at the start, they are performed first (log entry 9). -/
def Obligations.SetFrameDeliversItsRows : Prop :=
  ∀ (v0 v1 v2 v3 v4 v5 v6 v7 : Byte) (s : State), RestsHigh s →
    ∃ t, exec (.setFrame v0 v1 v2 v3 v4 v5 v6 v7) s = .next t ∧ t.pend = frame 0x08 v7 ∧
      (∀ r : Fin 8, t.settle.dev.read (rowAddress r) = #v[v0, v1, v2, v3, v4, v5, v6, v7][r]) ∧
      (∀ a : Byte, ¬ (0x01#8 ≤ a ∧ a ≤ 0x08#8) → t.settle.dev.read a = s.settle.dev.read a) ∧
      SameGame s t ∧ t.waiting = s.waiting ∧ SameInputs s t

/-- R83, R123: SET_FRAME is its eight words, each offered when the block is ready: the run of the eight commands reaches
exactly the state the instruction's meaning answers (which state that is, is the model's choice, log entry 7). -/
def Obligations.SetFrameIsItsEightCommands : Prop :=
  ∀ (v0 v1 v2 v3 v4 v5 v6 v7 : Byte) (rest : List StepInput) (s : State), Idle s →
    runSteps 365 { s with inputs := offersOfRows (setFrameWords v0 v1 v2 v3 v4 v5 v6 v7) ++ rest } =
      exec (.setFrame v0 v1 v2 v3 v4 v5 v6 v7)
        { s with inputs := List.replicate 51 (offer (cmdWord 0x4 0 7 v7)) ++ rest }

/-! ## The game commands -/

/-- GAME_INIT (R140): the four effects of `init()`; no event, the display untouched, nothing else changed. -/
def Obligations.GameInitStartsANewGame : Prop :=
  ∀ s : State, ∃ t, exec .gameInit s = .next t ∧ IsNewGame t ∧
    t = { s with cells := t.cells, moves := 0#4, nextPlayer := .player1, outcome := .inProgress }

/-- R150: PLAY_AT on an occupied or out-of-range cell, or in a terminal state, changes nothing at all. -/
def Obligations.IgnoredPlayAtChangesNothing : Prop :=
  ∀ (row col : Byte) (s : State),
    (2 < row.toNat ∨ 2 < col.toNat ∨ s.outcome ≠ .inProgress ∨
      ∃ i j : Fin 3, row.toNat = i.val ∧ col.toNat = j.val ∧ s.cell (boardIndex i j) ≠ .empty) →
    exec (.playAt row col) s = .next s

/-- R141, R142: PLAY_AT when the three guards pass: the cell takes the mark, MOVES goes up by one, NEXT flips, OUTCOME is
evaluated on the new board, the mark's pixels are lit and no pixel is darkened; lines, device, WAITING and inputs are
as before. -/
def Obligations.AcceptedPlayAtPlacesTheMark : Prop :=
  ∀ (row col : Byte) (s : State) (i j : Fin 3), row.toNat = i.val → col.toNat = j.val →
    s.outcome = .inProgress → s.cell (boardIndex i j) = .empty →
    ∃ t, exec (.playAt row col) s = .next t ∧
      (∀ k : Fin 9, t.cell k = if k = boardIndex i j then s.nextPlayer.mark else s.cell k) ∧
      t.moves = s.moves + 1#4 ∧ t.nextPlayer = s.nextPlayer.other ∧
      t.outcome = evaluatedOutcome t.cells t.moves s.outcome ∧
      (∀ r c : Fin 8, (t.row r).getLsbD (7 - c.val) =
        (decide ((r, c) ∈ markPixels s.nextPlayer.mark i j) || (s.row r).getLsbD (7 - c.val))) ∧
      SameLines s t ∧ SameDevice s t ∧ t.waiting = s.waiting ∧ SameInputs s t

/-- R147: the frames of an accepted move: four for Player1, two for Player2, in row-major order, each with the row as the
frame before it left it. Where events are pending, that the frames go after them is the model's choice (log entry 9). -/
def Obligations.AcceptedPlayAtSendsTheMarksFrames : Prop :=
  ∀ (row col : Byte) (s : State) (i j : Fin 3), row.toNat = i.val → col.toNat = j.val →
    s.outcome = .inProgress → s.cell (boardIndex i j) = .empty →
    ∃ t, exec (.playAt row col) s = .next t ∧
      t.pend = s.pend ++ frames
        (match s.nextPlayer with
        | .player1 =>
          [(0x01#8 + BitVec.ofNat 8 (3 * i.val), s.row (blockFirst i) ||| 0x80#8 >>> (3 * j.val)),
            (0x01#8 + BitVec.ofNat 8 (3 * i.val), s.row (blockFirst i) ||| 0xC0#8 >>> (3 * j.val)),
            (0x02#8 + BitVec.ofNat 8 (3 * i.val), s.row (blockSecond i) ||| 0x80#8 >>> (3 * j.val)),
            (0x02#8 + BitVec.ofNat 8 (3 * i.val), s.row (blockSecond i) ||| 0xC0#8 >>> (3 * j.val))]
        | .player2 =>
          [(0x01#8 + BitVec.ofNat 8 (3 * i.val), s.row (blockFirst i) ||| 0x80#8 >>> (3 * j.val)),
            (0x02#8 + BitVec.ofNat 8 (3 * i.val), s.row (blockSecond i) ||| 0x40#8 >>> (3 * j.val))])

/-- R149: for every accepted move MOVES goes up by exactly 1 and NEXT strictly alternates. An accepted move is a PLAY_AT
that changes the board (R8). -/
def Obligations.AcceptedMoveCountsAndAlternates : Prop :=
  ∀ (row col : Byte) (s t : State), exec (.playAt row col) s = .next t → t.cells ≠ s.cells →
    t.moves = s.moves + 1#4 ∧ t.nextPlayer = s.nextPlayer.other ∧ OneMove s t

/-- R145, whole: the evaluate operation, over the eight lines of R144 in its scan order. Below five moves, and when no line
matches before the ninth move, nothing is written; the first matching line gives its owner the win; no line at nine moves is
a draw. The first clause spells out the table of lines that the other statements about lines speak of. -/
def Obligations.EvaluateScansTheLinesInOrder : Prop :=
  boardLines = [(0, 1, 2), (3, 4, 5), (6, 7, 8), (0, 3, 6), (1, 4, 7), (2, 5, 8), (0, 4, 8), (6, 4, 2)] ∧
  ∀ s : State, ∃ t, exec .evaluate s = .next t ∧ t = { s with outcome := t.outcome } ∧
    (s.moves < 5#4 → t = s) ∧
    (∀ (p : Player) (n : Nat) (l : Fin 9 × Fin 9 × Fin 9), 5#4 ≤ s.moves → boardLines[n]? = some l →
      s.cell l.1 = p.mark → s.cell l.2.1 = p.mark → s.cell l.2.2 = p.mark →
      (∀ (m : Nat) (l' : Fin 9 × Fin 9 × Fin 9), m < n → boardLines[m]? = some l' →
        ¬ (s.cell l'.1 ≠ .empty ∧ s.cell l'.1 = s.cell l'.2.1 ∧ s.cell l'.2.1 = s.cell l'.2.2)) →
      t.outcome = p.wins) ∧
    (5#4 ≤ s.moves → (¬ HasLine s.cells .player1) → (¬ HasLine s.cells .player2) →
      t.outcome = if s.moves = 9#4 then .draw else s.outcome)

/-- R146: on every state that meets the game's invariants EVALUATE changes nothing. -/
def Obligations.EvaluateChangesNothingInAGame : Prop :=
  ∀ s : State, GameInv s → exec .evaluate s = .next s

/-- R151: below five moves EVALUATE reports nothing, and no move that leaves fewer than five marks reports a win. -/
def Obligations.NoWinBelowFiveMoves : Prop :=
  ∀ s : State, s.moves < 5#4 →
    exec .evaluate s = .next s ∧
    (s.outcome = .inProgress → ∀ (row col : Byte) (t : State), exec (.playAt row col) s = .next t → t.moves < 5#4 →
      t.outcome = .inProgress)

/-- R152: a ninth move that fills the board with no three in a line is a draw. -/
def Obligations.FullBoardWithoutLineIsADraw : Prop :=
  ∀ (row col : Byte) (s t : State), exec (.playAt row col) s = .next t → t.cells ≠ s.cells → s.moves = 8#4 →
    (¬ HasLine t.cells .player1) → (¬ HasLine t.cells .player2) → t.outcome = .draw

/-- The game's invariants hold after reset (R22, R31). -/
def Obligations.GameInvariantsHoldAtReset : Prop := GameInv State.reset

/-- R22: the invariants are kept by every step, from every state that meets them. The game stays as it is, or takes one
accepted move, in a step that accepts PLAY_AT or samples for an AWAIT_MOVE, or is new, in a step that resets or accepts
GAME_INIT (I1, I2); and where OUTCOME is terminal nothing but GAME_INIT and reset changes the game (I4). -/
def Obligations.EveryStepKeepsTheGameInvariants : Prop :=
  ∀ s t : State, GameInv s → step s = .next t →
    GameInv t ∧ (SameGame s t ∨ (OneMove s t ∧ TriesAMove s) ∨ (IsNewGame t ∧ StartsAGame s)) ∧
    (s.outcome ≠ .inProgress → SameGame s t ∨ (IsNewGame t ∧ StartsAGame s))

/-- R148: the row cache is the picture of the board, `ROW = pixels(CELL)`, after reset, and every step that accepts only
PLAY_AT, AWAIT_MOVE, EVALUATE or NOP keeps it so. It says nothing of what the matrix shows (R241, R245). -/
def Obligations.PlayingKeepsThePictureOfTheBoard : Prop :=
  ShowsBoard State.reset ∧
  ∀ s t : State, ShowsBoard s → (∀ i, acceptedCommand? s = some i → playsOnly i) → step s = .next t → ShowsBoard t

/-! ## The position bus and the wait -/

/-- R170: the four cases of the position decode. R175: one-hot inputs decode exactly, and line `k` selects board index
`k`. -/
def Obligations.PositionDecodeCases : Prop :=
  (∀ (bus : BitVec 9) (d : BitVec 4), decodePosition bus true d = 9#4) ∧
  (∀ d : BitVec 4, decodePosition 0#9 false d = 0#4) ∧
  (∀ (k : Nat) (d : BitVec 4), k < 9 → decodePosition (1#9 <<< k) false d = BitVec.ofNat 4 (k + 1)) ∧
  (∀ (bus : BitVec 9) (d : BitVec 4), bus ≠ 0#9 → (∀ k : Nat, k < 9 → bus ≠ 1#9 <<< k) →
    decodePosition bus false d = d) ∧
  (∀ k : Nat, k < 9 → posToRowCol (BitVec.ofNat 4 (k + 1)) = (BitVec.ofNat 8 (k / 3), BitVec.ofNat 8 (k % 3)))

/-- R172: position to board coordinates for every position 1 to 15; 1 to 9 are cells, 10 to 15 are rows 3 and 4. -/
def Obligations.PositionToCoordinates : Prop :=
  ∀ p : BitVec 4, p ≠ 0#4 →
    (posToRowCol p).1.toNat = (p.toNat - 1) / 3 ∧ (posToRowCol p).2.toNat = (p.toNat - 1) % 3 ∧
    (p.toNat ≤ 9 → 3 * (posToRowCol p).1.toNat + (posToRowCol p).2.toNat = p.toNat - 1 ∧
      (posToRowCol p).1.toNat ≤ 2 ∧ (posToRowCol p).2.toNat ≤ 2) ∧
    (10 ≤ p.toNat → (posToRowCol p).1.toNat = 3 ∨ (posToRowCol p).1.toNat = 4)

/-- Accepting AWAIT_MOVE only sets WAITING (R174, R193). -/
def Obligations.AwaitMoveStartsTheWait : Prop :=
  ∀ s : State, exec .awaitMove s = .next { s with waiting := true }

/-- A sample (R174, R194): the sentinel changes nothing; any other position ends the wait and is played as PLAY_AT. -/
def Obligations.SampleEndsTheWaitWithAMove : Prop :=
  ∀ (s : State) (i : StepInput) (rest : List StepInput), s.inputs = i :: rest → i.rst = false → s.pend = [] →
    s.waiting = true →
    step s =
      if decodePosition i.posBus i.posOvr i.draw = 0#4 then .next { s with inputs := rest }
      else exec (.playAt (posToRowCol (decodePosition i.posBus i.posOvr i.draw)).1
        (posToRowCol (decodePosition i.posBus i.posOvr i.draw)).2) { s with inputs := rest, waiting := false }

/-- R176: a completed AWAIT_MOVE changes the game not at all or as exactly one accepted move. -/
def Obligations.AwaitMovePlacesAtMostOneMark : Prop :=
  ∀ s t : State, s.pend = [] → s.waiting = true → s.takeInput.1.rst = false → step s = .next t →
    SameGame s t ∨ (t.waiting = false ∧ OneMove s t ∧ t.outcome = evaluatedOutcome t.cells t.moves s.outcome)

/-- R251: while every sample decodes to the sentinel and there is no reset, the wait lasts: after any number of such steps
nothing has changed but the inputs used. -/
def Obligations.SilentBusWaitsForEver : Prop :=
  ∀ (k : Nat) (s : State), s.pend = [] → s.waiting = true → NoReset k s →
    (∀ i ∈ s.inputs.take k, decodePosition i.posBus i.posOvr i.draw = 0#4) →
    runSteps k s = .next { s with inputs := s.inputs.drop k }

/-! ## NOP and the reserved commands -/

/-- R197, R198: NOP and the six reserved commands have no effect. -/
def Obligations.NopAndReservedDoNothing : Prop :=
  ∀ s : State, exec .nop s = .next s ∧ exec .reservedA s = .next s ∧ exec .reservedB s = .next s ∧
    exec .reservedC s = .next s ∧ exec .reservedD s = .next s ∧ exec .reservedE s = .next s ∧
    exec .reservedF s = .next s

/-! ## The device's frames -/

/-- What the device does with a frame it latches (R47, R50 to R56; the reading of a FRAME16 row as an instruction is the
model's, log entry 6): the register of the frame's address takes its value, every other register reads as before, and
nothing else changes. -/
def Obligations.LatchedFrameWritesItsRegister : Prop :=
  ∀ (v : Byte) (s : State) (i : Instr) (a : Byte),
    (i, a) ∈ [(Instr.fRow0 v, 0x01#8), (.fRow1 v, 0x02#8), (.fRow2 v, 0x03#8), (.fRow3 v, 0x04#8), (.fRow4 v, 0x05#8),
      (.fRow5 v, 0x06#8), (.fRow6 v, 0x07#8), (.fRow7 v, 0x08#8), (.fDecode v, 0x09#8), (.fIntensity v, 0x0A#8),
      (.fScanLimit v, 0x0B#8), (.fShutdown v, 0x0C#8), (.fDispTest v, 0x0F#8)] →
    ∃ t, exec i s = .next t ∧ t.dev.read a = v ∧ (∀ a' : Byte, a' ≠ a → t.dev.read a' = s.dev.read a') ∧
      t = { s with dev := t.dev }

/-- R57: with the four settings DEV_INIT makes, a pixel is lit exactly when its bit in its row register is 1; with any other
setting of those four registers nothing is claimed. A register that no frame has written holds its free byte (log
entries 4, 20). That the claim also stands after a frame to an address outside R50, and for what the device kept through
shutdown, is the model's choice, unsafe for a real device (log entries 25, 26). -/
def Obligations.PixelIsLitByItsRowBit : Prop :=
  (∀ (s : State) (r c : Fin 8),
    s.dev.read 0x09 = 0x00#8 → s.dev.read 0x0B = 0x07#8 → s.dev.read 0x0C = 0x01#8 → s.dev.read 0x0F = 0x00#8 →
    s.pixelLit? r c = some ((s.dev.read (0x01#8 + BitVec.ofNat 8 r.val)).getLsbD (7 - c.val))) ∧
  (∀ (s : State) (r c : Fin 8), (s.dev.read 0x09 ≠ 0x00#8 ∨ s.dev.read 0x0B ≠ 0x07#8 ∨
    s.dev.read 0x0C ≠ 0x01#8 ∨ s.dev.read 0x0F ≠ 0x00#8) → s.pixelLit? r c = none)

/-- R12: every step keeps the mirror property, unless it is a reset or accepts a WRITE_REG to a row register; CS rests
high between frames. -/
def Obligations.EveryStepKeepsTheMirror : Prop :=
  ∀ s t : State, RestsHigh s → Mirrors s → s.takeInput.1.rst = false →
    (∀ i, acceptedCommand? s = some i → ¬ rawRowWrite i) → step s = .next t → Mirrors t

/-- DEV_INIT establishes the mirror property from any state whose chip select rests high (R12, R102); the device is the
reference receiver (log entry 5), and where events are pending its frames go after them (log entry 9). -/
def Obligations.DevInitEstablishesTheMirror : Prop :=
  ∀ (level : Byte) (s : State), RestsHigh s → ∃ t, exec (.devInit level) s = .next t ∧ Mirrors t ∧ RestsHigh t

/-- Every step keeps the chip select resting high (R105: "CS is 1 after reset and 1 after every frame"), and it does so
after reset. -/
def Obligations.ChipSelectRestsHigh : Prop :=
  RestsHigh State.reset ∧ ∀ s t : State, RestsHigh s → step s = .next t → RestsHigh t

/-! ## The step relation -/

/-- A step runs the command it accepts (R191, R193, R194): idle, no reset, a command offered: the step is the decoded
command's meaning on the state with this step's inputs taken. -/
def Obligations.StepRunsTheAcceptedCommand : Prop :=
  ∀ (s : State) (i : StepInput) (rest : List StepInput), s.inputs = i :: rest → i.rst = false → i.cmdValid = true →
    Idle s → step s = exec (decodeCmd i.cmd) { s with inputs := rest }

/-- A step runs the frame the device latches (the model's reading, log entry 6): no reset, the pending event raises CS, and
the shift register holds a frame of the table: the step is the decoded frame's meaning on the state with the event
performed. -/
def Obligations.StepRunsTheLatchedFrame : Prop :=
  ∀ (s : State) (i : StepInput) (rest : List StepInput) (es : List LineEvent) (f : Instr),
    s.inputs = i :: rest → i.rst = false → s.pend = ⟨.cs, true⟩ :: es → s.cs = false →
    decode (.frame s.sh) = .ok f → step s = exec f { s with inputs := rest, pend := es, cs := true }

/-- A step that drains performs the first pending event (R195): its line takes the level, the other two keep theirs; the
block's other state is unchanged. What the shift register and the device do with it is the reference receiver of R47 (log
entry 5). -/
def Obligations.DrainingPerformsOneEvent : Prop :=
  ∀ (s : State) (i : StepInput) (rest : List StepInput) (L : Line) (b : Bool) (es : List LineEvent),
    s.inputs = i :: rest → i.rst = false → s.pend = ⟨L, b⟩ :: es →
    ∃ t, step s = .next t ∧ t.pend = es ∧ t.inputs = rest ∧
      t.data = (if L = .data then b else s.data) ∧ t.clock = (if L = .clock then b else s.clock) ∧
      t.cs = (if L = .cs then b else s.cs) ∧ t.rows = s.rows ∧ SameGame s t ∧ t.waiting = s.waiting ∧
      t.tick = s.tick ∧
      t.sh = (if L = .clock ∧ b = true ∧ s.clock = false then s.sh.extractLsb' 0 15 ++ BitVec.ofBool s.data else s.sh) ∧
      (∀ a : Byte, t.dev.read a =
        if L = .cs ∧ b = true ∧ s.cs = false ∧ a = s.sh.extractLsb' 8 8 then (s.sh.extractLsb' 0 8)
        else s.dev.read a)

/-- R196: a command that emitted E events drains in the next E steps, whatever is offered meanwhile, and performs all of
them. -/
def Obligations.PendingEventsDrainOneAStep : Prop :=
  ∀ s : State, NoReset s.pend.length s →
    runSteps s.pend.length s = .next { s.settle with inputs := s.inputs.drop s.pend.length }

/-- A reset step gives the block its reset values whatever it was doing (R240). It leaves the shift register, and writes to
the device only the pair that the rise of CS latches when it was low: these clauses are R241's and R256's, which the spec
marks as derived (log entry 16). -/
def Obligations.ResetWinsOverEverything : Prop :=
  ∀ (s : State) (i : StepInput) (rest : List StepInput), s.inputs = i :: rest → i.rst = true →
    ∃ t, step s = .next t ∧
      t = { State.reset with sh := s.sh, dev := t.dev, inputs := rest, tick := s.tick } ∧
      (∀ a : Byte, t.dev.read a =
        if s.cs = false ∧ a = s.sh.extractLsb' 8 8 then (s.sh.extractLsb' 0 8) else s.dev.read a)

/-- R31: the reset values of the block, and what the ports show. -/
def Obligations.ResetValues : Prop :=
  (∀ r : Fin 8, State.reset.row r = 0x00#8) ∧ (∀ k : Fin 9, State.reset.cell k = .empty) ∧
  State.reset.moves = 0#4 ∧ State.reset.nextPlayer = .player1 ∧ State.reset.outcome = .inProgress ∧
  State.reset.data = false ∧ State.reset.clock = false ∧ State.reset.cs = true ∧ State.reset.pend = [] ∧
  State.reset.waiting = false ∧ State.reset.cmdReady = true ∧ State.reset.turnP1 = true ∧ State.reset.turnP2 = false

/-- R191: while the block is not ready, what the host offers is ignored: two offers with everything else equal give the
same step. And an idle block that is offered nothing stays as it is. -/
def Obligations.OffersAreIgnoredWhileBusy : Prop :=
  (∀ (s : State) (i : StepInput) (valid : Bool) (word : CmdWord) (rest : List StepInput), s.cmdReady = false →
    step { s with inputs := { i with cmdValid := valid, cmd := word } :: rest } = step { s with inputs := i :: rest }) ∧
  (∀ (s : State) (i : StepInput) (rest : List StepInput), s.inputs = i :: rest → i.rst = false → i.cmdValid = false →
    Idle s → step s = .next { s with inputs := rest })

/-- R173: "Outside `WAITING = 1` the input lines have no effect on anything". -/
def Obligations.PositionLinesMatterOnlyWhileWaiting : Prop :=
  ∀ (s : State) (i : StepInput) (bus : BitVec 9) (ovr : Bool) (d : BitVec 4) (rest : List StepInput),
    s.waiting = false →
    step { s with inputs := { i with posBus := bus, posOvr := ovr, draw := d } :: rest } =
      step { s with inputs := i :: rest }

/-- R210, R107: every instruction and every step has exactly one outcome, the next state. -/
def Obligations.EveryStepHasANextState : Prop :=
  (∀ (i : Instr) (s : State), ∃ t, exec i s = .next t) ∧ ∀ s : State, ∃ t, step s = .next t

/-- No command and no frame touches what is not its own: which instructions can change the row cache, the game, the lines,
the device, WAITING and the inputs (R10's column "written by"; for SET_FRAME and the frames of the device the model's
reading, log entries 7 and 6; where events are pending, that PEND grows at its end is the model's choice, log entry 9). -/
def Obligations.InstructionsWriteOnlyTheirOwnState : Prop :=
  ∀ (i : Instr) (s t : State), exec i s = .next t →
    SameInputs s t ∧
    ((∀ row col, i ≠ .playAt row col) → i ≠ .gameInit → i ≠ .evaluate → SameGame s t) ∧
    (i ≠ .awaitMove → t.waiting = s.waiting) ∧
    ((∀ l, i ≠ .devInit l) → (∀ r c on, i ≠ .setPixel r c on) → (∀ r v, i ≠ .setRow r v) → i ≠ .clear →
      (∀ r c, i ≠ .playAt r c) → (∀ v0 v1 v2 v3 v4 v5 v6 v7, i ≠ .setFrame v0 v1 v2 v3 v4 v5 v6 v7) → t.rows = s.rows) ∧
    ((∀ v0 v1 v2 v3 v4 v5 v6 v7, i ≠ .setFrame v0 v1 v2 v3 v4 v5 v6 v7) →
      SameLines s t ∧ t.sh = s.sh ∧ ∃ es, t.pend = s.pend ++ es) ∧
    ((∃ w : CmdWord, i = decodeCmd w) → SameDevice s t)

/-- The device registers stay in canonical form (the model's form, log entry 4): every step keeps it, and it holds after
reset. -/
def Obligations.EveryStepKeepsTheDeviceMemoryCanonical : Prop :=
  State.reset.dev.wf ∧ ∀ s t : State, s.dev.wf → step s = .next t → t.dev.wf

/-- Nothing is pending while an AWAIT_MOVE waits: every step keeps it, and it holds after reset (R191, R194). -/
def Obligations.WaitingBlockHasNothingPending : Prop :=
  (State.reset.waiting = true → State.reset.pend = []) ∧
  ∀ s t : State, (s.waiting = true → s.pend = []) → step s = .next t → t.waiting = true → t.pend = []

/-- R200: the frame trace of a run without a reset is the list of frames its commands call, in program order, after those
already pending; and the event trace is those frames' events. The run starts between frames and ends with nothing pending.
While a list of frames is drained, nothing else is latched. -/
def Obligations.FrameTraceIsTheListOfFrames : Prop :=
  (∀ (ps : List (Byte × Byte)) (s : State), s.pend = frames ps → s.cs = true → NoReset (51 * ps.length) s →
    frameTrace (51 * ps.length) s = ps ∧ eventTrace (51 * ps.length) s = frames ps) ∧
  (∀ (k : Nat) (ps : List (Byte × Byte)) (s t : State), s.pend = frames ps → s.cs = true → NoReset k s →
    runSteps k s = .next t → t.pend = [] →
    frameTrace k s = ps ++ callTrace k s ∧ eventTrace k s = frames (ps ++ callTrace k s))

/-! ## The output ports -/

/-- R24: each turn indicator is high exactly while that player is to move; at most one is; exactly one is while the game is
in progress. -/
def Obligations.TurnIndicators : Prop :=
  ∀ s : State, (s.turnP1 = true ↔ s.outcome = .inProgress ∧ s.nextPlayer = .player1) ∧
    (s.turnP2 = true ↔ s.outcome = .inProgress ∧ s.nextPlayer = .player2) ∧ ¬ (s.turnP1 = true ∧ s.turnP2 = true) ∧
    (s.outcome = .inProgress → s.turnP1 = true ∨ s.turnP2 = true)

/-- R26, R80: the status ports: `cmd_ready`, the numbers of outcome and next player, and the places of the cells and the
rows. -/
def Obligations.StatusPorts : Prop :=
  ∀ s : State, (s.cmdReady = true ↔ s.pend = [] ∧ s.waiting = false) ∧
    s.stMoves = s.moves ∧
    (∀ k : Fin 9, s.stBoard.extractLsb' (2 * k.val) 2 =
      match s.cell k with
      | .empty => 0b00#2
      | .player1 => 0b01#2
      | .player2 => 0b10#2) ∧
    (∀ r : Fin 8, s.stRows.extractLsb' (8 * r.val) 8 = s.row r) ∧
    (s.stNext = 0#1 ↔ s.nextPlayer = .player1) ∧
    (s.stOutcome = 0b00#2 ↔ s.outcome = .inProgress) ∧ (s.stOutcome = 0b01#2 ↔ s.outcome = .player1Wins) ∧
    (s.stOutcome = 0b10#2 ↔ s.outcome = .player2Wins) ∧ (s.stOutcome = 0b11#2 ↔ s.outcome = .draw)
end

