-- ==== Sys2Proof/Laws/Encoding.lean ====
section
/-! SUPPORT. The fields of frame words and command words (R70, R74). -/

namespace Sys2Proof

/-! ## Frame words -/

theorem frameWord_getLsbD (a v : Byte) (i : Nat) :
    (frameWord a v).getLsbD i = if i < 8 then v.getLsbD i else a.getLsbD (i - 8) :=
  BitVec.getLsbD_append

theorem frameWord_high (a v : Byte) : (frameWord a v).extractLsb' 8 8 = a := by
  apply BitVec.eq_of_getLsbD_eq
  intro i hi
  rw [BitVec.getLsbD_extractLsb', frameWord_getLsbD]
  simp [hi]

theorem frameWord_low (a v : Byte) : (frameWord a v).extractLsb' 0 8 = v := by
  apply BitVec.eq_of_getLsbD_eq
  intro i hi
  rw [BitVec.getLsbD_extractLsb', frameWord_getLsbD]
  simp [hi]

theorem frameWord_fields (w : FrameWord) : frameWord (w.extractLsb' 8 8) (w.extractLsb' 0 8) = w := by
  apply BitVec.eq_of_getLsbD_eq
  intro i hi
  rw [frameWord_getLsbD, BitVec.getLsbD_extractLsb', BitVec.getLsbD_extractLsb']
  by_cases h : i < 8
  · simp [h]
  · have h1 : i - 8 < 8 := by omega
    have h2 : 8 + (i - 8) = i := by omega
    rw [if_neg h, h2]
    simp [h1]

theorem cmdWord_getLsbD (op f : BitVec 4) (a b : Byte) (i : Nat) :
    (cmdWord op f a b).getLsbD i =
      if i < 8 then b.getLsbD i else if i < 16 then a.getLsbD (i - 8)
      else if i < 20 then f.getLsbD (i - 16) else op.getLsbD (i - 20) := by
  have h1 : (cmdWord op f a b).getLsbD i = if i < 8 then b.getLsbD i else (op ++ f ++ a).getLsbD (i - 8) :=
    BitVec.getLsbD_append
  rw [h1, BitVec.getLsbD_append, BitVec.getLsbD_append]
  by_cases h : i < 8
  · simp [h]
  · by_cases h' : i < 16
    · have : i - 8 < 8 := by omega
      simp [h, h', this]
    · have h2 : ¬ i - 8 < 8 := by omega
      have h3 : i - 8 - 8 = i - 16 := by omega
      have h4 : i - 16 - 4 = i - 20 := by omega
      have h5 : i - 16 < 4 ↔ i < 20 := by omega
      simp only [h, h', h2, h3, h4, h5, if_false]

theorem cmdWord_op (op f : BitVec 4) (a b : Byte) : (cmdWord op f a b).op = op := by
  apply BitVec.eq_of_getLsbD_eq
  intro i hi
  unfold CmdWord.op
  rw [BitVec.getLsbD_extractLsb', cmdWord_getLsbD]
  have h : ¬ 20 + i < 8 := by omega
  have h' : ¬ 20 + i < 16 := by omega
  have h'' : ¬ 20 + i < 20 := by omega
  simp [h, h', hi]

theorem cmdWord_a (op f : BitVec 4) (a b : Byte) : (cmdWord op f a b).a = a := by
  apply BitVec.eq_of_getLsbD_eq
  intro i hi
  unfold CmdWord.a
  rw [BitVec.getLsbD_extractLsb', cmdWord_getLsbD]
  have h' : 8 + i < 16 := by omega
  simp [h', hi]

theorem cmdWord_b (op f : BitVec 4) (a b : Byte) : (cmdWord op f a b).b = b := by
  apply BitVec.eq_of_getLsbD_eq
  intro i hi
  unfold CmdWord.b
  rw [BitVec.getLsbD_extractLsb', cmdWord_getLsbD]
  simp [hi]

theorem cmdWord_on (op f : BitVec 4) (a b : Byte) : (cmdWord op f a b).on = f.getLsbD 0 := by
  unfold CmdWord.on
  rw [cmdWord_getLsbD]
  simp
end Sys2Proof
end

