-- ==== Sys2Proof/Laws/State.lean ====
section
/-! SUPPORT. One lemma per field per update of State, so that no later proof unfolds a record update. -/

namespace Sys2Proof.Machine

/-! ## latchPair -/

@[simp] theorem State.latchPair_rows (s : State) (a v : Byte) : (s.latchPair a v).rows = s.rows := rfl
@[simp] theorem State.latchPair_cells (s : State) (a v : Byte) : (s.latchPair a v).cells = s.cells := rfl
@[simp] theorem State.latchPair_moves (s : State) (a v : Byte) : (s.latchPair a v).moves = s.moves := rfl
@[simp] theorem State.latchPair_nextPlayer (s : State) (a v : Byte) :
    (s.latchPair a v).nextPlayer = s.nextPlayer := rfl
@[simp] theorem State.latchPair_outcome (s : State) (a v : Byte) : (s.latchPair a v).outcome = s.outcome := rfl
@[simp] theorem State.latchPair_data (s : State) (a v : Byte) : (s.latchPair a v).data = s.data := rfl
@[simp] theorem State.latchPair_clock (s : State) (a v : Byte) : (s.latchPair a v).clock = s.clock := rfl
@[simp] theorem State.latchPair_cs (s : State) (a v : Byte) : (s.latchPair a v).cs = s.cs := rfl
@[simp] theorem State.latchPair_pend (s : State) (a v : Byte) : (s.latchPair a v).pend = s.pend := rfl
@[simp] theorem State.latchPair_waiting (s : State) (a v : Byte) : (s.latchPair a v).waiting = s.waiting := rfl
@[simp] theorem State.latchPair_sh (s : State) (a v : Byte) : (s.latchPair a v).sh = s.sh := rfl
@[simp] theorem State.latchPair_dev (s : State) (a v : Byte) : (s.latchPair a v).dev = Memory.write s.dev a v := rfl
@[simp] theorem State.latchPair_inputs (s : State) (a v : Byte) : (s.latchPair a v).inputs = s.inputs := rfl
@[simp] theorem State.latchPair_tick (s : State) (a v : Byte) : (s.latchPair a v).tick = s.tick := rfl

/-! ## emit -/

@[simp] theorem State.emit_rows (s : State) (es : List LineEvent) : (s.emit es).rows = s.rows := rfl
@[simp] theorem State.emit_cells (s : State) (es : List LineEvent) : (s.emit es).cells = s.cells := rfl
@[simp] theorem State.emit_moves (s : State) (es : List LineEvent) : (s.emit es).moves = s.moves := rfl
@[simp] theorem State.emit_nextPlayer (s : State) (es : List LineEvent) :
    (s.emit es).nextPlayer = s.nextPlayer := rfl
@[simp] theorem State.emit_outcome (s : State) (es : List LineEvent) : (s.emit es).outcome = s.outcome := rfl
@[simp] theorem State.emit_data (s : State) (es : List LineEvent) : (s.emit es).data = s.data := rfl
@[simp] theorem State.emit_clock (s : State) (es : List LineEvent) : (s.emit es).clock = s.clock := rfl
@[simp] theorem State.emit_cs (s : State) (es : List LineEvent) : (s.emit es).cs = s.cs := rfl
@[simp] theorem State.emit_pend (s : State) (es : List LineEvent) : (s.emit es).pend = s.pend ++ es := rfl
@[simp] theorem State.emit_waiting (s : State) (es : List LineEvent) : (s.emit es).waiting = s.waiting := rfl
@[simp] theorem State.emit_sh (s : State) (es : List LineEvent) : (s.emit es).sh = s.sh := rfl
@[simp] theorem State.emit_dev (s : State) (es : List LineEvent) : (s.emit es).dev = s.dev := rfl
@[simp] theorem State.emit_inputs (s : State) (es : List LineEvent) : (s.emit es).inputs = s.inputs := rfl
@[simp] theorem State.emit_tick (s : State) (es : List LineEvent) : (s.emit es).tick = s.tick := rfl

/-! ## sendFrame -/

@[simp] theorem State.sendFrame_rows (s : State) (a v : Byte) : (s.sendFrame a v).rows = s.rows := rfl
@[simp] theorem State.sendFrame_cells (s : State) (a v : Byte) : (s.sendFrame a v).cells = s.cells := rfl
@[simp] theorem State.sendFrame_moves (s : State) (a v : Byte) : (s.sendFrame a v).moves = s.moves := rfl
@[simp] theorem State.sendFrame_nextPlayer (s : State) (a v : Byte) :
    (s.sendFrame a v).nextPlayer = s.nextPlayer := rfl
@[simp] theorem State.sendFrame_outcome (s : State) (a v : Byte) : (s.sendFrame a v).outcome = s.outcome := rfl
@[simp] theorem State.sendFrame_data (s : State) (a v : Byte) : (s.sendFrame a v).data = s.data := rfl
@[simp] theorem State.sendFrame_clock (s : State) (a v : Byte) : (s.sendFrame a v).clock = s.clock := rfl
@[simp] theorem State.sendFrame_cs (s : State) (a v : Byte) : (s.sendFrame a v).cs = s.cs := rfl
@[simp] theorem State.sendFrame_pend (s : State) (a v : Byte) : (s.sendFrame a v).pend = s.pend ++ frame a v := rfl
@[simp] theorem State.sendFrame_waiting (s : State) (a v : Byte) : (s.sendFrame a v).waiting = s.waiting := rfl
@[simp] theorem State.sendFrame_sh (s : State) (a v : Byte) : (s.sendFrame a v).sh = s.sh := rfl
@[simp] theorem State.sendFrame_dev (s : State) (a v : Byte) : (s.sendFrame a v).dev = s.dev := rfl
@[simp] theorem State.sendFrame_inputs (s : State) (a v : Byte) : (s.sendFrame a v).inputs = s.inputs := rfl
@[simp] theorem State.sendFrame_tick (s : State) (a v : Byte) : (s.sendFrame a v).tick = s.tick := rfl

/-! ## shiftIn -/

@[simp] theorem State.shiftIn_rows (s : State) : (s.shiftIn).rows = s.rows := rfl
@[simp] theorem State.shiftIn_cells (s : State) : (s.shiftIn).cells = s.cells := rfl
@[simp] theorem State.shiftIn_moves (s : State) : (s.shiftIn).moves = s.moves := rfl
@[simp] theorem State.shiftIn_nextPlayer (s : State) : (s.shiftIn).nextPlayer = s.nextPlayer := rfl
@[simp] theorem State.shiftIn_outcome (s : State) : (s.shiftIn).outcome = s.outcome := rfl
@[simp] theorem State.shiftIn_data (s : State) : (s.shiftIn).data = s.data := rfl
@[simp] theorem State.shiftIn_clock (s : State) : (s.shiftIn).clock = s.clock := rfl
@[simp] theorem State.shiftIn_cs (s : State) : (s.shiftIn).cs = s.cs := rfl
@[simp] theorem State.shiftIn_pend (s : State) : (s.shiftIn).pend = s.pend := rfl
@[simp] theorem State.shiftIn_waiting (s : State) : (s.shiftIn).waiting = s.waiting := rfl
@[simp] theorem State.shiftIn_sh (s : State) : (s.shiftIn).sh = s.sh.shiftConcat s.data := rfl
@[simp] theorem State.shiftIn_dev (s : State) : (s.shiftIn).dev = s.dev := rfl
@[simp] theorem State.shiftIn_inputs (s : State) : (s.shiftIn).inputs = s.inputs := rfl
@[simp] theorem State.shiftIn_tick (s : State) : (s.shiftIn).tick = s.tick := rfl

/-! ## putRow -/

@[simp] theorem State.putRow_rows (s : State) (r : Fin 8) (v : Byte) : (s.putRow r v).rows = s.rows.set r v := rfl
@[simp] theorem State.putRow_cells (s : State) (r : Fin 8) (v : Byte) : (s.putRow r v).cells = s.cells := rfl
@[simp] theorem State.putRow_moves (s : State) (r : Fin 8) (v : Byte) : (s.putRow r v).moves = s.moves := rfl
@[simp] theorem State.putRow_nextPlayer (s : State) (r : Fin 8) (v : Byte) :
    (s.putRow r v).nextPlayer = s.nextPlayer := rfl
@[simp] theorem State.putRow_outcome (s : State) (r : Fin 8) (v : Byte) : (s.putRow r v).outcome = s.outcome := rfl
@[simp] theorem State.putRow_data (s : State) (r : Fin 8) (v : Byte) : (s.putRow r v).data = s.data := rfl
@[simp] theorem State.putRow_clock (s : State) (r : Fin 8) (v : Byte) : (s.putRow r v).clock = s.clock := rfl
@[simp] theorem State.putRow_cs (s : State) (r : Fin 8) (v : Byte) : (s.putRow r v).cs = s.cs := rfl
@[simp] theorem State.putRow_pend (s : State) (r : Fin 8) (v : Byte) : (s.putRow r v).pend = s.pend := rfl
@[simp] theorem State.putRow_waiting (s : State) (r : Fin 8) (v : Byte) : (s.putRow r v).waiting = s.waiting := rfl
@[simp] theorem State.putRow_sh (s : State) (r : Fin 8) (v : Byte) : (s.putRow r v).sh = s.sh := rfl
@[simp] theorem State.putRow_dev (s : State) (r : Fin 8) (v : Byte) : (s.putRow r v).dev = s.dev := rfl
@[simp] theorem State.putRow_inputs (s : State) (r : Fin 8) (v : Byte) : (s.putRow r v).inputs = s.inputs := rfl
@[simp] theorem State.putRow_tick (s : State) (r : Fin 8) (v : Byte) : (s.putRow r v).tick = s.tick := rfl

/-! ## putCell -/

@[simp] theorem State.putCell_rows (s : State) (k : Fin 9) (c : Cell) : (s.putCell k c).rows = s.rows := rfl
@[simp] theorem State.putCell_cells (s : State) (k : Fin 9) (c : Cell) :
    (s.putCell k c).cells = s.cells.set k c := rfl
@[simp] theorem State.putCell_moves (s : State) (k : Fin 9) (c : Cell) : (s.putCell k c).moves = s.moves := rfl
@[simp] theorem State.putCell_nextPlayer (s : State) (k : Fin 9) (c : Cell) :
    (s.putCell k c).nextPlayer = s.nextPlayer := rfl
@[simp] theorem State.putCell_outcome (s : State) (k : Fin 9) (c : Cell) : (s.putCell k c).outcome = s.outcome := rfl
@[simp] theorem State.putCell_data (s : State) (k : Fin 9) (c : Cell) : (s.putCell k c).data = s.data := rfl
@[simp] theorem State.putCell_clock (s : State) (k : Fin 9) (c : Cell) : (s.putCell k c).clock = s.clock := rfl
@[simp] theorem State.putCell_cs (s : State) (k : Fin 9) (c : Cell) : (s.putCell k c).cs = s.cs := rfl
@[simp] theorem State.putCell_pend (s : State) (k : Fin 9) (c : Cell) : (s.putCell k c).pend = s.pend := rfl
@[simp] theorem State.putCell_waiting (s : State) (k : Fin 9) (c : Cell) : (s.putCell k c).waiting = s.waiting := rfl
@[simp] theorem State.putCell_sh (s : State) (k : Fin 9) (c : Cell) : (s.putCell k c).sh = s.sh := rfl
@[simp] theorem State.putCell_dev (s : State) (k : Fin 9) (c : Cell) : (s.putCell k c).dev = s.dev := rfl
@[simp] theorem State.putCell_inputs (s : State) (k : Fin 9) (c : Cell) : (s.putCell k c).inputs = s.inputs := rfl
@[simp] theorem State.putCell_tick (s : State) (k : Fin 9) (c : Cell) : (s.putCell k c).tick = s.tick := rfl

/-! ## countMove -/

@[simp] theorem State.countMove_rows (s : State) : (s.countMove).rows = s.rows := rfl
@[simp] theorem State.countMove_cells (s : State) : (s.countMove).cells = s.cells := rfl
@[simp] theorem State.countMove_moves (s : State) : (s.countMove).moves = s.moves + 1#4 := rfl
@[simp] theorem State.countMove_nextPlayer (s : State) : (s.countMove).nextPlayer = s.nextPlayer.other := rfl
@[simp] theorem State.countMove_outcome (s : State) : (s.countMove).outcome = s.outcome := rfl
@[simp] theorem State.countMove_data (s : State) : (s.countMove).data = s.data := rfl
@[simp] theorem State.countMove_clock (s : State) : (s.countMove).clock = s.clock := rfl
@[simp] theorem State.countMove_cs (s : State) : (s.countMove).cs = s.cs := rfl
@[simp] theorem State.countMove_pend (s : State) : (s.countMove).pend = s.pend := rfl
@[simp] theorem State.countMove_waiting (s : State) : (s.countMove).waiting = s.waiting := rfl
@[simp] theorem State.countMove_sh (s : State) : (s.countMove).sh = s.sh := rfl
@[simp] theorem State.countMove_dev (s : State) : (s.countMove).dev = s.dev := rfl
@[simp] theorem State.countMove_inputs (s : State) : (s.countMove).inputs = s.inputs := rfl
@[simp] theorem State.countMove_tick (s : State) : (s.countMove).tick = s.tick := rfl

/-! ## evaluate -/

@[simp] theorem State.evaluate_rows (s : State) : (s.evaluate).rows = s.rows := rfl
@[simp] theorem State.evaluate_cells (s : State) : (s.evaluate).cells = s.cells := rfl
@[simp] theorem State.evaluate_moves (s : State) : (s.evaluate).moves = s.moves := rfl
@[simp] theorem State.evaluate_nextPlayer (s : State) : (s.evaluate).nextPlayer = s.nextPlayer := rfl
@[simp] theorem State.evaluate_outcome (s : State) :
    (s.evaluate).outcome = evaluatedOutcome s.cells s.moves s.outcome := rfl
@[simp] theorem State.evaluate_data (s : State) : (s.evaluate).data = s.data := rfl
@[simp] theorem State.evaluate_clock (s : State) : (s.evaluate).clock = s.clock := rfl
@[simp] theorem State.evaluate_cs (s : State) : (s.evaluate).cs = s.cs := rfl
@[simp] theorem State.evaluate_pend (s : State) : (s.evaluate).pend = s.pend := rfl
@[simp] theorem State.evaluate_waiting (s : State) : (s.evaluate).waiting = s.waiting := rfl
@[simp] theorem State.evaluate_sh (s : State) : (s.evaluate).sh = s.sh := rfl
@[simp] theorem State.evaluate_dev (s : State) : (s.evaluate).dev = s.dev := rfl
@[simp] theorem State.evaluate_inputs (s : State) : (s.evaluate).inputs = s.inputs := rfl
@[simp] theorem State.evaluate_tick (s : State) : (s.evaluate).tick = s.tick := rfl

/-! ## newGame -/

@[simp] theorem State.newGame_rows (s : State) : (s.newGame).rows = s.rows := rfl
@[simp] theorem State.newGame_cells (s : State) : (s.newGame).cells = Vector.replicate 9 .empty := rfl
@[simp] theorem State.newGame_moves (s : State) : (s.newGame).moves = 0#4 := rfl
@[simp] theorem State.newGame_nextPlayer (s : State) : (s.newGame).nextPlayer = .player1 := rfl
@[simp] theorem State.newGame_outcome (s : State) : (s.newGame).outcome = .inProgress := rfl
@[simp] theorem State.newGame_data (s : State) : (s.newGame).data = s.data := rfl
@[simp] theorem State.newGame_clock (s : State) : (s.newGame).clock = s.clock := rfl
@[simp] theorem State.newGame_cs (s : State) : (s.newGame).cs = s.cs := rfl
@[simp] theorem State.newGame_pend (s : State) : (s.newGame).pend = s.pend := rfl
@[simp] theorem State.newGame_waiting (s : State) : (s.newGame).waiting = s.waiting := rfl
@[simp] theorem State.newGame_sh (s : State) : (s.newGame).sh = s.sh := rfl
@[simp] theorem State.newGame_dev (s : State) : (s.newGame).dev = s.dev := rfl
@[simp] theorem State.newGame_inputs (s : State) : (s.newGame).inputs = s.inputs := rfl
@[simp] theorem State.newGame_tick (s : State) : (s.newGame).tick = s.tick := rfl

/-! ## setWaiting -/

@[simp] theorem State.setWaiting_rows (s : State) (b : Bool) : (s.setWaiting b).rows = s.rows := rfl
@[simp] theorem State.setWaiting_cells (s : State) (b : Bool) : (s.setWaiting b).cells = s.cells := rfl
@[simp] theorem State.setWaiting_moves (s : State) (b : Bool) : (s.setWaiting b).moves = s.moves := rfl
@[simp] theorem State.setWaiting_nextPlayer (s : State) (b : Bool) :
    (s.setWaiting b).nextPlayer = s.nextPlayer := rfl
@[simp] theorem State.setWaiting_outcome (s : State) (b : Bool) : (s.setWaiting b).outcome = s.outcome := rfl
@[simp] theorem State.setWaiting_data (s : State) (b : Bool) : (s.setWaiting b).data = s.data := rfl
@[simp] theorem State.setWaiting_clock (s : State) (b : Bool) : (s.setWaiting b).clock = s.clock := rfl
@[simp] theorem State.setWaiting_cs (s : State) (b : Bool) : (s.setWaiting b).cs = s.cs := rfl
@[simp] theorem State.setWaiting_pend (s : State) (b : Bool) : (s.setWaiting b).pend = s.pend := rfl
@[simp] theorem State.setWaiting_waiting (s : State) (b : Bool) : (s.setWaiting b).waiting = b := rfl
@[simp] theorem State.setWaiting_sh (s : State) (b : Bool) : (s.setWaiting b).sh = s.sh := rfl
@[simp] theorem State.setWaiting_dev (s : State) (b : Bool) : (s.setWaiting b).dev = s.dev := rfl
@[simp] theorem State.setWaiting_inputs (s : State) (b : Bool) : (s.setWaiting b).inputs = s.inputs := rfl
@[simp] theorem State.setWaiting_tick (s : State) (b : Bool) : (s.setWaiting b).tick = s.tick := rfl

/-! ## resetBlock -/

@[simp] theorem State.resetBlock_rows (s : State) : (s.resetBlock).rows = Vector.replicate 8 0x00#8 := rfl
@[simp] theorem State.resetBlock_cells (s : State) : (s.resetBlock).cells = Vector.replicate 9 .empty := rfl
@[simp] theorem State.resetBlock_moves (s : State) : (s.resetBlock).moves = 0#4 := rfl
@[simp] theorem State.resetBlock_nextPlayer (s : State) : (s.resetBlock).nextPlayer = .player1 := rfl
@[simp] theorem State.resetBlock_outcome (s : State) : (s.resetBlock).outcome = .inProgress := rfl
@[simp] theorem State.resetBlock_data (s : State) : (s.resetBlock).data = false := rfl
@[simp] theorem State.resetBlock_clock (s : State) : (s.resetBlock).clock = false := rfl
@[simp] theorem State.resetBlock_cs (s : State) : (s.resetBlock).cs = true := rfl
@[simp] theorem State.resetBlock_pend (s : State) : (s.resetBlock).pend = [] := rfl
@[simp] theorem State.resetBlock_waiting (s : State) : (s.resetBlock).waiting = false := rfl
@[simp] theorem State.resetBlock_sh (s : State) : (s.resetBlock).sh = s.sh := rfl
@[simp] theorem State.resetBlock_dev (s : State) : (s.resetBlock).dev = s.dev := rfl
@[simp] theorem State.resetBlock_inputs (s : State) : (s.resetBlock).inputs = s.inputs := rfl
@[simp] theorem State.resetBlock_tick (s : State) : (s.resetBlock).tick = s.tick := rfl

/-! ## setLine -/

@[simp] theorem State.setLine_rows (s : State) (L : Line) (b : Bool) : (s.setLine L b).rows = s.rows := by
  cases L <;> rfl
@[simp] theorem State.setLine_cells (s : State) (L : Line) (b : Bool) : (s.setLine L b).cells = s.cells := by
  cases L <;> rfl
@[simp] theorem State.setLine_moves (s : State) (L : Line) (b : Bool) : (s.setLine L b).moves = s.moves := by
  cases L <;> rfl
@[simp] theorem State.setLine_nextPlayer (s : State) (L : Line) (b : Bool) : (s.setLine L b).nextPlayer = s.nextPlayer := by
  cases L <;> rfl
@[simp] theorem State.setLine_outcome (s : State) (L : Line) (b : Bool) : (s.setLine L b).outcome = s.outcome := by
  cases L <;> rfl
@[simp] theorem State.setLine_data_data (s : State) (b : Bool) : (s.setLine .data b).data = b := rfl
@[simp] theorem State.setLine_clock_data (s : State) (b : Bool) : (s.setLine .clock b).data = s.data := rfl
@[simp] theorem State.setLine_cs_data (s : State) (b : Bool) : (s.setLine .cs b).data = s.data := rfl
@[simp] theorem State.setLine_data_clock (s : State) (b : Bool) : (s.setLine .data b).clock = s.clock := rfl
@[simp] theorem State.setLine_clock_clock (s : State) (b : Bool) : (s.setLine .clock b).clock = b := rfl
@[simp] theorem State.setLine_cs_clock (s : State) (b : Bool) : (s.setLine .cs b).clock = s.clock := rfl
@[simp] theorem State.setLine_data_cs (s : State) (b : Bool) : (s.setLine .data b).cs = s.cs := rfl
@[simp] theorem State.setLine_clock_cs (s : State) (b : Bool) : (s.setLine .clock b).cs = s.cs := rfl
@[simp] theorem State.setLine_cs_cs (s : State) (b : Bool) : (s.setLine .cs b).cs = b := rfl
@[simp] theorem State.setLine_pend (s : State) (L : Line) (b : Bool) : (s.setLine L b).pend = s.pend := by
  cases L <;> rfl
@[simp] theorem State.setLine_waiting (s : State) (L : Line) (b : Bool) : (s.setLine L b).waiting = s.waiting := by
  cases L <;> rfl
@[simp] theorem State.setLine_sh (s : State) (L : Line) (b : Bool) : (s.setLine L b).sh = s.sh := by
  cases L <;> rfl
@[simp] theorem State.setLine_dev (s : State) (L : Line) (b : Bool) : (s.setLine L b).dev = s.dev := by
  cases L <;> rfl
@[simp] theorem State.setLine_inputs (s : State) (L : Line) (b : Bool) : (s.setLine L b).inputs = s.inputs := by
  cases L <;> rfl
@[simp] theorem State.setLine_tick (s : State) (L : Line) (b : Bool) : (s.setLine L b).tick = s.tick := by
  cases L <;> rfl

/-! ## Reading the register files -/

theorem State.row_putRow (s : State) (r r' : Fin 8) (v : Byte) :
    (s.putRow r v).row r' = if r' = r then v else s.row r' := by
  by_cases h : r' = r
  · subst h; simp [State.row]
  · have : ¬ r.val = r'.val := fun e => h (Fin.ext e.symm)
    simp [State.row, h, this]

theorem State.cell_putCell (s : State) (k k' : Fin 9) (c : Cell) :
    (s.putCell k c).cell k' = if k' = k then c else s.cell k' := by
  by_cases h : k' = k
  · subst h; simp [State.cell]
  · have : ¬ k.val = k'.val := fun e => h (Fin.ext e.symm)
    simp [State.cell, h, this]

/-- Two row caches with the same rows are the same. -/
theorem rows_ext {s t : State} (h : ∀ r, t.row r = s.row r) : t.rows = s.rows := by
  apply Vector.ext
  intro i hi
  exact h ⟨i, hi⟩

/-- Two boards with the same cells are the same. -/
theorem cells_ext {s t : State} (h : ∀ k, t.cell k = s.cell k) : t.cells = s.cells := by
  apply Vector.ext
  intro i hi
  exact h ⟨i, hi⟩

end Sys2Proof.Machine
end

