-- ==== Sys2Proof/Laws/Memory.lean ====
section
/-! SUPPORT. The device registers: reading after writing, and the canonical form. -/

namespace Sys2Proof.Machine

theorem Memory.find_insert (m : Memory) (a b : Nat) (v : Byte) :
    ((Memory.insert a v m).find? fun x => x.1 == b).map (·.2) =
      if b = a then some v else (m.find? fun x => x.1 == b).map (·.2) := by
  induction m with
  | nil => by_cases hb : b = a <;> simp [Memory.insert, hb, @eq_comm _ a]
  | cons x m ih =>
    obtain ⟨c, w⟩ := x
    simp only [Memory.insert]
    split
    · by_cases hb : b = a <;> simp [List.find?_cons, hb, @eq_comm _ a]
    split
    · rename_i h2
      subst h2
      by_cases hb : b = a <;> simp [hb, @eq_comm _ a]
    · by_cases hx : c = b
      · have : b ≠ a := by omega
        simp [hx, this]
      · simpa [hx] using ih

theorem Memory.readWith_write (d : Byte → Byte) (m : Memory) (a b v : Byte) :
    (m.write a v).readWith d b = if b = a then v else m.readWith d b := by
  simp only [Memory.readWith, Memory.write, Memory.find_insert, BitVec.toNat_inj]
  split <;> rfl

/-- Read after write, of any two registers. -/
@[simp] theorem Memory.read_write (m : Memory) (a b v : Byte) :
    (m.write a v).read b = if b = a then v else m.read b := Memory.readWith_write _ m a b v

theorem Memory.mem_insert {m : Memory} {a : Nat} {v : Byte} {x : Host.Cell} (h : x ∈ Memory.insert a v m) :
    x = (a, v) ∨ x ∈ m := by
  induction m with
  | nil => simpa [Memory.insert] using h
  | cons y m ih =>
    simp only [Memory.insert] at h
    split at h
    · simpa using h
    split at h
    · rcases List.mem_cons.1 h with h | h <;> simp [h]
    · rcases List.mem_cons.1 h with h | h
      · simp [h]
      · rcases ih h with h | h <;> simp [h]

theorem Memory.insert_sorted {m : Memory} (h : m.Pairwise (fun x y => x.1 < y.1)) (a : Nat) (v : Byte) :
    (Memory.insert a v m).Pairwise (fun x y => x.1 < y.1) := by
  induction m with
  | nil => simp [Memory.insert]
  | cons y m ih =>
    obtain ⟨hy, hm⟩ := List.pairwise_cons.1 h
    simp only [Memory.insert]
    split
    · rename_i hlt
      exact List.pairwise_cons.2 ⟨fun z hz => (List.mem_cons.1 hz).elim (· ▸ hlt) fun hz => hlt.trans (hy z hz), h⟩
    split
    · rename_i heq
      exact List.pairwise_cons.2 ⟨fun z hz => heq ▸ hy z hz, hm⟩
    · refine List.pairwise_cons.2 ⟨fun z hz => ?_, ih hm⟩
      rcases Memory.mem_insert hz with rfl | hz
      · exact show y.1 < a by omega
      · exact hy z hz

/-- Every write keeps the canonical form. -/
theorem Memory.write_wf {m : Memory} (h : m.wf) (a v : Byte) : (m.write a v).wf :=
  ⟨Memory.insert_sorted h.1 _ v, fun x hx => (Memory.mem_insert hx).elim (fun e => e ▸ a.isLt) (h.2 x)⟩

theorem State.latchPair_wf {s : State} (h : s.dev.wf) (a v : Byte) : (s.latchPair a v).dev.wf := Memory.write_wf h a v

/-- What is listed reads as listed, whatever the registers held at power-up. -/
theorem Memory.readWith_of_mem {m : Memory} (h : m.wf) {x : Host.Cell} (hx : x ∈ m) (d : Byte → Byte) :
    m.readWith d (BitVec.ofNat 8 x.1) = x.2 := by
  obtain ⟨hs, hb⟩ := h
  have e : (BitVec.ofNat 8 x.1).toNat = x.1 := by simpa using hb x hx
  have hf : m.find? (fun y => y.1 == x.1) = some x := by
    clear hb e
    induction m with
    | nil => cases hx
    | cons y m ih =>
      obtain ⟨hy, hs⟩ := List.pairwise_cons.1 hs
      rcases List.mem_cons.1 hx with rfl | hx
      · simp
      · have hne : y.1 ≠ x.1 := (hy x hx).ne
        simpa [hne] using ih hx hs
  simp [Memory.readWith, e, hf]

/-- What reads alike whatever the registers held at power-up is listed. -/
theorem Memory.mem_of_readWith {m : Memory} {a v : Byte} (h : ∀ d, m.readWith d a = v) : (a.toNat, v) ∈ m := by
  have h1 := h fun _ => v + 1
  unfold Memory.readWith at h1
  cases hf : m.find? (fun y => y.1 == a.toNat) with
  | none =>
    rw [hf] at h1
    simp at h1
  | some y =>
    rw [hf] at h1
    have hy : y.1 = a.toNat := by simpa using List.find?_some hf
    have hv : y.2 = v := by simpa using h1
    rw [← hy, ← hv]
    exact List.mem_of_find?_eq_some hf

/-- Two memories in canonical form that read alike whatever the registers held at power-up are the same list. -/
theorem Memory.eq_of_readWith {m m' : Memory} (h : m.wf) (h' : m'.wf)
    (hr : ∀ d a, m.readWith d a = m'.readWith d a) : m = m' := by
  have sub : ∀ {m m' : Memory}, m.wf → (∀ d a, m.readWith d a = m'.readWith d a) → ∀ x ∈ m, x ∈ m' := by
    intro m m' h hr x hx
    have e : (BitVec.ofNat 8 x.1).toNat = x.1 := by simpa using h.2 x hx
    have := Memory.mem_of_readWith (m := m') (a := BitVec.ofNat 8 x.1) fun d => by
      rw [← hr, Memory.readWith_of_mem h hx d]
    rwa [e] at this
  exact List.Pairwise.eq_of_mem_iff h.1 h'.1 fun x => ⟨sub h hr x, sub h' (fun d a => (hr d a).symm) x⟩

/-- The machine starts with its memory in canonical form. -/
theorem reset_dev_wf : State.reset.dev.wf := by decide

end Sys2Proof.Machine
end

