-- ==== Sys2Proof/Laws/Link.lean ====
section
/-! SUPPORT. What performing line events can do: one event, a list of events, a byte, a whole frame (R195, R47, R105). -/

namespace Sys2Proof.Machine

theorem State.perform_eq (s : State) (e : LineEvent) :
    s.perform e = { s.setLine e.line e.level with sh := (s.perform e).sh, dev := (s.perform e).dev } := by
  unfold State.perform State.moveLine
  split <;> split <;> rfl

@[simp] theorem State.performAll_nil (s : State) : s.performAll [] = s := rfl

@[simp] theorem State.performAll_cons (s : State) (e : LineEvent) (es : List LineEvent) :
    s.performAll (e :: es) = (s.perform e).performAll es := rfl

theorem State.performAll_append (s : State) (es fs : List LineEvent) :
    s.performAll (es ++ fs) = (s.performAll es).performAll fs := List.foldl_append

/-- Performing events changes the three lines and the device alone. -/
theorem State.performAll_eq (s : State) (es : List LineEvent) :
    s.performAll es =
      { s with
        data := (s.performAll es).data
        clock := (s.performAll es).clock
        cs := (s.performAll es).cs
        sh := (s.performAll es).sh
        dev := (s.performAll es).dev } := by
  induction es generalizing s with
  | nil => rfl
  | cons e es ih =>
    rw [State.performAll_cons, ih (s.perform e)]
    generalize (s.perform e).performAll es = u
    obtain ⟨L, b⟩ := e
    rw [State.perform_eq s]
    cases L <;> rfl

/-- Latching writes one device register. -/
theorem State.latch_eq (s : State) :
    s.latch = { s with dev := s.dev.write (s.sh.extractLsb' 8 8) (s.sh.extractLsb' 0 8) } := rfl

/-- Same lines and same device. -/
def SameLink (s t : State) : Prop :=
  t.data = s.data ∧ t.clock = s.clock ∧ t.cs = s.cs ∧ t.sh = s.sh ∧ t.dev = s.dev

theorem SameLink.perform {s t : State} (h : SameLink s t) (e : LineEvent) : SameLink (s.perform e) (t.perform e) := by
  obtain ⟨hd, hk, hc, hs, hm⟩ := h
  obtain ⟨L, b⟩ := e
  have h1 : isLatchEdge t ⟨L, b⟩ = isLatchEdge s ⟨L, b⟩ := by simp [isLatchEdge, hc]
  have h2 : isClockRise t ⟨L, b⟩ = isClockRise s ⟨L, b⟩ := by simp [isClockRise, hk]
  unfold State.perform State.moveLine
  rw [h1, h2]
  cases isLatchEdge s ⟨L, b⟩ <;> cases isClockRise s ⟨L, b⟩ <;> cases L <;>
    simp [SameLink, State.setLine, State.shiftIn, State.latch, State.latchPair, hd, hk, hc, hs, hm]

/-- Performing looks at the lines and the device alone: two states that agree there stay in agreement. -/
theorem SameLink.performAll {s t : State} (h : SameLink s t) (es : List LineEvent) :
    SameLink (s.performAll es) (t.performAll es) := by
  induction es generalizing s t with
  | nil => exact h
  | cons e es ih => exact ih (h.perform e)

theorem State.performAll_bitEvents (s : State) (b : Bool) :
    s.performAll (bitEvents b) =
      { s with data := b, clock := true, sh := s.sh.shiftConcat b } := by
  rfl

/-- Shifting a bit in, as R47 writes it: `{SH[14:0], DATA}`. -/
theorem shiftConcat_eq (x : FrameWord) (b : Bool) : x.shiftConcat b = x.extractLsb' 0 15 ++ BitVec.ofBool b := by
  apply BitVec.eq_of_getLsbD_eq
  intro i hi
  rw [BitVec.getLsbD_append, BitVec.getLsbD_shiftConcat, BitVec.getLsbD_extractLsb']
  by_cases h : i = 0
  · subst h; cases b <;> simp
  · have h1 : ¬ i < 1 := by omega
    have h2 : i - 1 < 15 := by omega
    simp [h, h1, h2, hi]

/-- Eight bits shifted in, bit 7 first: the low byte moves up and the byte sent stands below it. -/
theorem shiftByte (x : FrameWord) (v : Byte) :
    [7, 6, 5, 4, 3, 2, 1, 0].foldl (fun (x : FrameWord) i => x.shiftConcat (v.getLsbD i)) x
      = frameWord (x.extractLsb' 0 8) v := by
  apply BitVec.eq_of_getLsbD_eq
  intro i hi
  rw [frameWord_getLsbD]
  simp only [List.foldl]
  interval_cases i <;> simp [BitVec.getElem_shiftConcat]

theorem State.performAll_bits (s : State) (v : Byte) (is : List Nat) :
    s.performAll (is.flatMap fun i => bitEvents (v.getLsbD i)) =
      match is.getLast? with
      | none => s
      | some i => { s with
          data := v.getLsbD i
          clock := true
          sh := is.foldl (fun x i => x.shiftConcat (v.getLsbD i)) s.sh } := by
  induction is generalizing s with
  | nil => rfl
  | cons i is ih =>
    rw [List.flatMap_cons, State.performAll_append, State.performAll_bitEvents, ih]
    cases is with
    | nil => rfl
    | cons j is => simp [List.getLast?_cons]

theorem State.performAll_byteEvents (s : State) (v : Byte) :
    s.performAll (byteEvents v) =
      { s with data := v.getLsbD 0, clock := true, sh := frameWord (s.sh.extractLsb' 0 8) v } := by
  rw [← shiftByte s.sh v]
  exact State.performAll_bits s v _

/-- A frame performed from CS high (R105): the levels it leaves, the pair in the shift register, one device write. -/
theorem State.performAll_frame (s : State) (a v : Byte) (h : s.cs = true) :
    s.performAll (frame a v) =
      { s with data := v.getLsbD 0, clock := true, sh := frameWord a v, dev := s.dev.write a v } := by
  have h1 : s.performAll [⟨.cs, true⟩] = s := by
    obtain ⟨_⟩ := s
    subst h
    rfl
  rw [frame, State.performAll_append, State.performAll_append, State.performAll_append, h1,
    State.performAll_byteEvents, State.performAll_byteEvents, frameWord_low]
  simp [State.perform, isLatchEdge, State.moveLine, isClockRise, State.setLine, State.latch, State.latchPair, h,
    frameWord_high, frameWord_low]

/-- Frames performed from CS high write their pairs in order. -/
theorem State.performAll_frames_dev (ps : List (Byte × Byte)) (s : State) (h : s.cs = true) :
    (s.performAll (frames ps)).dev = ps.foldl (fun m p => m.write p.1 p.2) s.dev ∧
      (s.performAll (frames ps)).cs = true := by
  induction ps generalizing s with
  | nil => exact ⟨rfl, h⟩
  | cons p ps ih =>
    rw [frames, List.flatMap_cons, State.performAll_append, State.performAll_frame s _ _ h]
    exact ih _ h

end Sys2Proof.Machine
end

