-- ==== Sys2Proof/Laws/Display.lean ====
section
/-! SUPPORT. The display operands (R77) and the row operations (R120 to R122): what each can do, said once. -/

namespace Sys2Proof.Machine

/-! ## Operands -/

theorem displayIndex?_of_lt {x : Byte} {r : Fin 8} (h : x.toNat = r.val) : displayIndex? x = some r := by
  have hx : x.toNat < 8 := h ▸ r.isLt
  simp [displayIndex?, h]

theorem displayIndex?_of_gt {x : Byte} (h : 7 < x.toNat) : displayIndex? x = none := by
  have hx : ¬ x.toNat < 8 := by omega
  simp [displayIndex?, hx]

theorem displayIndex?_some {x : Byte} {r : Fin 8} (h : displayIndex? x = some r) : x.toNat = r.val := by
  unfold displayIndex? at h
  split at h
  · cases h; rfl
  · cases h

theorem rowAddress_of_byte {x : Byte} {r : Fin 8} (h : x.toNat = r.val) : rowAddress r = 0x01#8 + x := by
  simp [rowAddress, ← h]

theorem rowAddress_inj {r r' : Fin 8} (h : rowAddress r = rowAddress r') : r = r' := by
  revert r r'
  decide

/-- The pixel at column `c` takes `on`; every other column keeps its bit (R120). -/
theorem withPixel_bit (v : Byte) (c c' : Fin 8) (on : Bool) :
    (withPixel v c on).getLsbD (7 - c'.val) = if c' = c then on else v.getLsbD (7 - c'.val) := by
  cases on <;> fin_cases c <;> fin_cases c' <;> simp [withPixel, columnMask]

/-- Two rows with the same pixels are the same. -/
theorem byte_ext {x y : Byte} (h : ∀ c : Fin 8, x.getLsbD (7 - c.val) = y.getLsbD (7 - c.val)) : x = y := by
  apply BitVec.eq_of_getLsbD_eq
  intro i hi
  have h' := h ⟨7 - i, by omega⟩
  simpa [show 7 - (7 - i) = i by omega] using h'

/-! ## Frames and settling -/

theorem frame_length (a v : Byte) : (frame a v).length = 51 := rfl

theorem frames_length (ps : List (Byte × Byte)) : (frames ps).length = 51 * ps.length := by
  induction ps with
  | nil => rfl
  | cons p ps ih =>
    rw [frames, List.flatMap_cons, List.length_append, frame_length]
    simp only [frames] at ih
    rw [ih, List.length_cons]
    omega

theorem frames_append (ps qs : List (Byte × Byte)) : frames (ps ++ qs) = frames ps ++ frames qs :=
  List.flatMap_append

theorem State.emit_emit (s : State) (es fs : List LineEvent) : (s.emit es).emit fs = s.emit (es ++ fs) := by
  simp [State.emit]

/-- What is emitted last is performed last. -/
theorem State.settle_emit (s : State) (es : List LineEvent) : (s.emit es).settle = s.settle.performAll es :=
  State.performAll_append _ _ _

/-- Settling changes the lines and the device, and empties what is pending. -/
theorem State.settle_eq (s : State) :
    s.settle =
      { s with
        pend := []
        data := s.settle.data
        clock := s.settle.clock
        cs := s.settle.cs
        sh := s.settle.sh
        dev := s.settle.dev } :=
  State.performAll_eq { s with pend := [] } s.pend

/-- Two states that agree on the lines, the device and what is pending settle to states that agree there. -/
theorem SameLink.settle {s t : State} (h : SameLink s t) (hp : t.pend = s.pend) : SameLink s.settle t.settle := by
  unfold State.settle
  rw [hp]
  exact SameLink.performAll (s := { s with pend := [] }) (t := { t with pend := [] }) h s.pend

theorem State.settle_idle {s : State} (h : s.pend = []) : s.settle = s := by
  unfold State.settle
  rw [h]
  obtain ⟨_⟩ := s
  subst h
  rfl

@[simp] theorem State.settle_row (s : State) (r : Fin 8) : s.settle.row r = s.row r := by
  rw [State.settle_eq]; rfl

/-- A frame that waits behind a chip select at rest stores its pair (R105). -/
theorem State.settle_sendFrame (s : State) (a v : Byte) (h : s.settle.cs = true) :
    (s.sendFrame a v).settle =
      { s.settle with data := v.getLsbD 0, clock := true, sh := frameWord a v, dev := s.settle.dev.write a v } := by
  rw [State.sendFrame, State.settle_emit, State.performAll_frame _ _ _ h]

/-! ## Rows -/

@[simp] theorem State.sendFrame_row (s : State) (a v : Byte) (r : Fin 8) : (s.sendFrame a v).row r = s.row r := rfl

theorem State.sendRow_row (s : State) (r r' : Fin 8) (v : Byte) :
    (s.sendRow r v).row r' = if r' = r then v else s.row r' := State.row_putRow s r r' v

/-- `SKIP_UNCHANGED` is false (R5): every SET_PIXEL in range sends its row. -/
theorem State.setPixelAt_eq (s : State) (r c : Fin 8) (on : Bool) :
    s.setPixelAt r c on = s.sendRow r (withPixel (s.row r) c on) := by
  simp [State.setPixelAt, Config.skipUnchanged]

theorem State.setPixelAt_bit (s : State) (r c r' c' : Fin 8) (on : Bool) :
    ((s.setPixelAt r c on).row r').getLsbD (7 - c'.val) =
      if r' = r ∧ c' = c then on else (s.row r').getLsbD (7 - c'.val) := by
  rw [State.setPixelAt_eq, State.sendRow_row]
  by_cases h : r' = r
  · subst h; simp [withPixel_bit]
  · simp [h]

/-- The CLEAR operation (R122): every row 0, the eight frames in ascending order. -/
theorem State.clearRows_eq (s : State) :
    s.clearRows =
      { s with
        rows := Vector.replicate 8 0x00#8
        pend := s.pend ++ frames (displayRows.map fun r => (rowAddress r, 0x00#8)) } := by
  have hr : s.clearRows.rows = Vector.replicate 8 0x00#8 := by
    have h : ∀ r, s.clearRows.row r = 0x00#8 := by
      intro r
      simp only [State.clearRows, displayRows, List.foldl, State.sendRow_row]
      fin_cases r <;> simp
    apply Vector.ext
    intro i hi
    have h' := h ⟨i, hi⟩
    simpa [State.row] using h'
  have hp : s.clearRows.pend = s.pend ++ frames (displayRows.map fun r => (rowAddress r, 0x00#8)) := by
    simp only [State.clearRows, displayRows, List.foldl, State.sendRow, State.sendFrame_pend, State.putRow_pend,
      List.append_assoc]
    rfl
  rw [← hr, ← hp]
  rfl

/-- What the SET_ROW operation can do (R121): write the row cache and emit. -/
theorem State.setRowAt_eq (s : State) (row value : Byte) :
    ∃ es, s.setRowAt row value = { s with rows := (s.setRowAt row value).rows, pend := s.pend ++ es } := by
  unfold State.setRowAt
  split
  · exact ⟨_, rfl⟩
  · exact ⟨[], by simp⟩

/-- The next SET_ROW of a run: what was pending is performed first, and its own events are all that is pending. -/
theorem State.thenSetRow_eq (s : State) (row value : Byte) :
    ∃ es, s.thenSetRow row value = { s.settle with rows := (s.thenSetRow row value).rows, pend := es } := by
  obtain ⟨es, h⟩ := State.setRowAt_eq s.settle row value
  refine ⟨s.settle.pend ++ es, ?_⟩
  unfold State.thenSetRow
  exact h

end Sys2Proof.Machine
end

