-- ==== Sys2Proof/Laws/Step.lean ====
section
/-! SUPPORT. What a step can do: one equation for its five branches (R194), and runs that drain (R196). -/

namespace Sys2Proof.Machine

theorem addr_eq {w : FrameWord} {n : Nat} (h : w.addr.toNat = n) : w.extractLsb' 8 8 = BitVec.ofNat 8 n := by
  subst h; unfold FrameWord.addr; simp only [BitVec.ofNat_toNat, BitVec.setWidth_eq]

/-- The device's two readings of a latch agree: running the decoded frame is storing the pair (R47, R50). -/
theorem runLatched_eq (s : State) : runLatched s = .next s.latch := by
  have key : ∀ (n : Nat), s.sh.addr.toNat = n → s.latch = s.latchPair (BitVec.ofNat 8 n) s.sh.val := by
    intro n h
    rw [State.latch, addr_eq h]; rfl
  unfold runLatched decodeFrame
  split
  · rename_i i h
    split at h <;> first
      | (rename_i hn; cases h; rw [key _ hn]; rfl)
      | cases h
  · rfl

/-- A step that drains performs the event whole (R195). -/
theorem drainCycle_eq (e : LineEvent) (rest : List LineEvent) (s : State) :
    drainCycle e rest s = .next (({ s with pend := rest } : State).perform e) := by
  have h : isLatchEdge ({ s with pend := rest } : State) e = isLatchEdge s e := rfl
  unfold drainCycle State.perform
  rw [h]
  cases isLatchEdge s e
  · rfl
  · exact runLatched_eq _

theorem resetCycle_eq (s : State) :
    resetCycle s = .next (if s.cs then s.resetBlock else s.resetBlock.latch) := by
  unfold resetCycle
  rw [runLatched_eq]
  split <;> rfl

theorem State.takeInput_cons (s : State) (i : StepInput) (rest : List StepInput) (h : s.inputs = i :: rest) :
    s.takeInput = (i, { s with inputs := rest }) := by
  unfold State.takeInput
  rw [h]

/-- Taking the inputs of a step touches only the inputs. -/
theorem State.takeInput_eq (s : State) :
    s.takeInput.2 = { s with inputs := s.takeInput.2.inputs, tick := s.takeInput.2.tick } := by
  unfold State.takeInput
  split <;> rfl

/-- The five branches of a step (R194), each with its condition. -/
theorem step_eq (s : State) :
    step s =
      if s.takeInput.1.rst then .next (if s.cs then s.takeInput.2.resetBlock else s.takeInput.2.resetBlock.latch)
      else match s.pend with
        | e :: rest => .next (({ s.takeInput.2 with pend := rest } : State).perform e)
        | [] =>
          if s.waiting then takeSample s.takeInput.1 s.takeInput.2
          else if s.takeInput.1.cmdValid then exec (decodeCmd s.takeInput.1.cmd) s.takeInput.2
          else .next s.takeInput.2 := by
  have hp : s.takeInput.2.pend = s.pend := by rw [State.takeInput_eq]
  have hw : s.takeInput.2.waiting = s.waiting := by rw [State.takeInput_eq]
  have hc : s.takeInput.2.cs = s.cs := by rw [State.takeInput_eq]
  unfold step cycle
  rw [resetCycle_eq, hp, hw, hc]
  cases s.takeInput.1.rst
  · cases s.pend
    · rfl
    · exact drainCycle_eq _ _ _
  · rfl

/-! ## Runs -/

theorem runSteps_zero (s : State) : runSteps 0 s = .next s := rfl

theorem runSteps_succ (k : Nat) (s : State) :
    runSteps (k + 1) s = match step s with
      | .next t => runSteps k t
      | .fault r => .fault r
      | .refused r => .refused r := rfl

theorem runSteps_next {s t : State} (k : Nat) (h : step s = .next t) : runSteps (k + 1) s = runSteps k t := by
  rw [runSteps_succ, h]

theorem runSteps_add {s t : State} {j : Nat} (k : Nat) (h : runSteps j s = .next t) :
    runSteps (j + k) s = runSteps k t := by
  induction j generalizing s with
  | zero => cases h; simp
  | succ j ih =>
    rw [Nat.succ_add, runSteps_succ]
    rw [runSteps_succ] at h
    cases hs : step s with
    | next u => rw [hs] at h; exact ih h
    | fault r => rw [hs] at h; cases h
    | refused r => rw [hs] at h; cases h

/-- A draining step, given its input and the head of PEND. -/
theorem step_drain {s : State} {i : StepInput} {rest : List StepInput} {e : LineEvent} {es : List LineEvent}
    (hi : s.inputs = i :: rest) (hr : i.rst = false) (hp : s.pend = e :: es) :
    step s = .next (({ s with inputs := rest, pend := es } : State).perform e) := by
  rw [step_eq, State.takeInput_cons s i rest hi, hp]
  simp [hr]

/-- Performing does not look at the inputs or at what is pending. -/
theorem State.performAll_with (s : State) (es : List LineEvent) (p : List LineEvent) (q : List StepInput) :
    ({ s with pend := p, inputs := q } : State).performAll es =
      { s.performAll es with pend := p, inputs := q } := by
  induction es generalizing s with
  | nil => rfl
  | cons e es ih =>
    rw [State.performAll_cons, State.performAll_cons, ← ih]
    congr 1
    have h1 : isLatchEdge ({ s with pend := p, inputs := q } : State) e = isLatchEdge s e := rfl
    have h2 : isClockRise ({ s with pend := p, inputs := q } : State) e = isClockRise s e := rfl
    obtain ⟨L, b⟩ := e
    unfold State.perform State.moveLine
    rw [h1, h2]
    cases isLatchEdge s ⟨L, b⟩ <;> cases isClockRise s ⟨L, b⟩ <;> cases L <;> rfl

/-- Pending events are performed one a step (R195, R196). -/
theorem run_drains (es rest : List LineEvent) (s : State) (hp : s.pend = es ++ rest) (hn : NoReset es.length s) :
    runSteps es.length s =
      .next { s.performAll es with pend := rest, inputs := s.inputs.drop es.length } := by
  induction es generalizing s with
  | nil =>
    simp only [List.length_nil, runSteps_zero, State.performAll_nil, List.drop_zero]
    simp only [List.nil_append] at hp
    subst hp; rfl
  | cons e es ih =>
    obtain ⟨hl, ha⟩ := hn
    cases hi : s.inputs with
    | nil => rw [hi] at hl; simp at hl
    | cons i is =>
      rw [hi] at hl ha
      have hr : i.rst = false := ha i (by simp)
      rw [List.cons_append] at hp
      rw [List.length_cons, runSteps_next _ (step_drain hi hr hp)]
      have e1 : ({ s with inputs := is, pend := es ++ rest } : State).perform e =
          { s.perform e with pend := es ++ rest, inputs := is } := State.performAll_with s [e] _ _
      rw [e1, ih]
      · rw [State.performAll_with]
        simp [State.performAll_cons]
      · rfl
      · refine ⟨by simpa using hl, fun j hj => ha j ?_⟩
        simp only [List.length_cons, List.take_succ_cons, List.mem_cons]
        exact Or.inr hj

end Sys2Proof.Machine
end

