-- ==== Sys2Proof/Laws/Game.lean ====
section
/-! SUPPORT. The game operations (R141 to R147) and the instructions over them: what each can do, said once. -/

namespace Sys2Proof.Machine

/-! ## Operands -/

theorem boardCoord?_of_lt {x : Byte} {i : Fin 3} (h : x.toNat = i.val) : boardCoord? x = some i := by
  have hx : x.toNat < 3 := h ▸ i.isLt
  simp [boardCoord?, h]

theorem boardCoord?_of_gt {x : Byte} (h : 2 < x.toNat) : boardCoord? x = none := by
  have hx : ¬ x.toNat < 3 := by omega
  simp [boardCoord?, hx]

theorem boardCoord?_some {x : Byte} {i : Fin 3} (h : boardCoord? x = some i) : x.toNat = i.val := by
  unfold boardCoord? at h
  split at h
  · cases h; rfl
  · cases h

/-- Every board index is the index of one cell. -/
theorem boardIndex_inj {i j i' j' : Fin 3} : boardIndex i j = boardIndex i' j' ↔ i = i' ∧ j = j' := by
  revert i j i' j'
  decide

/-! ## Lines and the outcome (R144, R145) -/

theorem Player.mark_ne_empty (p : Player) : p.mark ≠ .empty := by cases p <;> decide

theorem Player.mark_inj {p q : Player} (h : p.mark = q.mark) : p = q := by
  cases p <;> cases q <;> first | rfl | cases h

theorem Player.other_other (p : Player) : p.other.other = p := by cases p <;> rfl

theorem lineOwner?_eq_some (cells : Vector Cell 9) (l : Fin 9 × Fin 9 × Fin 9) (p : Player) :
    lineOwner? cells l = some p ↔ cells[l.1] = p.mark ∧ cells[l.2.1] = p.mark ∧ cells[l.2.2] = p.mark := by
  unfold lineOwner?
  generalize cells[l.1] = x
  generalize cells[l.2.1] = y
  generalize cells[l.2.2] = z
  revert x y z p
  intro x y z p
  cases x <;> cases y <;> cases z <;> cases p <;> simp [Player.mark]

/-- No line matches exactly when no player has a line. -/
theorem winner?_eq_none (cells : Vector Cell 9) : winner? cells = none ↔ ∀ p, ¬ HasLine cells p := by
  unfold winner? HasLine
  rw [List.findSome?_eq_none_iff]
  constructor
  · rintro h p ⟨l, hl, hp⟩
    rw [← lineOwner?_eq_some] at hp
    rw [h l hl] at hp
    cases hp
  · intro h l hl
    cases ho : lineOwner? cells l with
    | none => rfl
    | some p => exact absurd ⟨l, hl, (lineOwner?_eq_some _ _ _).1 ho⟩ (h p)

/-- A winner has a line. -/
theorem winner?_hasLine {cells : Vector Cell 9} {p : Player} (h : winner? cells = some p) : HasLine cells p := by
  obtain ⟨l, hl, ho⟩ := List.exists_of_findSome?_eq_some h
  exact ⟨l, hl, (lineOwner?_eq_some _ _ _).1 ho⟩

theorem evaluatedOutcome_early {cells : Vector Cell 9} {moves : BitVec 4} {old : GameOutcome} (h : moves < 5#4) :
    evaluatedOutcome cells moves old = old := by
  simp [evaluatedOutcome, h]

theorem evaluatedOutcome_win {cells : Vector Cell 9} {moves : BitVec 4} {old : GameOutcome} {p : Player}
    (h : ¬ moves < 5#4) (hp : winner? cells = some p) : evaluatedOutcome cells moves old = p.wins := by
  simp [evaluatedOutcome, h, hp]

theorem evaluatedOutcome_open {cells : Vector Cell 9} {moves : BitVec 4} {old : GameOutcome}
    (h : ¬ moves < 5#4) (hp : winner? cells = none) :
    evaluatedOutcome cells moves old = if moves = 9#4 then .draw else old := by
  simp [evaluatedOutcome, h, hp]

/-! ## Rendering (R147) -/

/-- Lighting pixels one after another: each of them is lit, the others keep their bit. -/
theorem lightPixels_bit (ps : List (Fin 8 × Fin 8)) (s : State) (r c : Fin 8) :
    ((ps.foldl (fun t p => t.setPixelAt p.1 p.2 true) s).row r).getLsbD (7 - c.val) =
      (decide ((r, c) ∈ ps) || (s.row r).getLsbD (7 - c.val)) := by
  induction ps generalizing s with
  | nil => simp
  | cons p ps ih =>
    rw [List.foldl_cons, ih, State.setPixelAt_bit]
    by_cases h : r = p.1 ∧ c = p.2
    · have hp : (r, c) = p := Prod.ext h.1 h.2
      simp [h.1, h.2]
    · have hp : ¬ (r, c) = p := fun e => h ⟨congrArg Prod.fst e, congrArg Prod.snd e⟩
      simp [h, hp]

/-- Lighting pixels changes the row cache and emits; nothing else. -/
theorem lightPixels_eq (ps : List (Fin 8 × Fin 8)) (s : State) :
    ∃ es, ps.foldl (fun t p => t.setPixelAt p.1 p.2 true) s =
      { s with rows := (ps.foldl (fun t p => t.setPixelAt p.1 p.2 true) s).rows, pend := s.pend ++ es } := by
  induction ps generalizing s with
  | nil => exact ⟨[], by simp⟩
  | cons p ps ih =>
    obtain ⟨es, h⟩ := ih (s.setPixelAt p.1 p.2 true)
    refine ⟨frame (rowAddress p.1) (withPixel (s.row p.1) p.2 true) ++ es, ?_⟩
    rw [List.foldl_cons, h, State.setPixelAt_eq]
    simp [State.sendRow, State.sendFrame, State.emit, State.putRow]

theorem State.render_bit (s : State) (i j : Fin 3) (m : Cell) (r c : Fin 8) :
    ((s.render i j m).row r).getLsbD (7 - c.val) =
      (decide ((r, c) ∈ markPixels m i j) || (s.row r).getLsbD (7 - c.val)) := lightPixels_bit _ _ _ _

theorem State.render_eq (s : State) (i j : Fin 3) (m : Cell) :
    ∃ es, s.render i j m = { s with rows := (s.render i j m).rows, pend := s.pend ++ es } := lightPixels_eq _ _

/-! ## Moves (R141, R142) -/

/-- What an accepted move does (R142): the cell, the count, the turn, the outcome, the picture, and events emitted. -/
theorem State.acceptMove_eq (s : State) (i j : Fin 3) :
    ∃ es, s.acceptMove i j =
      { s with
        rows := (s.acceptMove i j).rows
        cells := s.cells.set (boardIndex i j) s.nextPlayer.mark
        moves := s.moves + 1#4
        nextPlayer := s.nextPlayer.other
        outcome := evaluatedOutcome (s.cells.set (boardIndex i j) s.nextPlayer.mark) (s.moves + 1#4) s.outcome
        pend := s.pend ++ es } := by
  obtain ⟨es, h⟩ := State.render_eq ((s.putCell (boardIndex i j) s.nextPlayer.mark).countMove.evaluate) i j
    s.nextPlayer.mark
  exact ⟨es, h⟩

theorem State.acceptMove_bit (s : State) (i j : Fin 3) (r c : Fin 8) :
    ((s.acceptMove i j).row r).getLsbD (7 - c.val) =
      (decide ((r, c) ∈ markPixels s.nextPlayer.mark i j) || (s.row r).getLsbD (7 - c.val)) :=
  State.render_bit _ _ _ _ _ _

/-- What PLAY_AT can do (R141): nothing, or accept the move when the three guards pass. -/
theorem execPlayAt_cases {row col : Byte} {s t : State} (h : execPlayAt row col s = .next t) :
    t = s ∨ ∃ i j : Fin 3, row.toNat = i.val ∧ col.toNat = j.val ∧ s.outcome = .inProgress ∧
      s.cell (boardIndex i j) = .empty ∧ t = s.acceptMove i j := by
  unfold execPlayAt at h
  split at h
  · rename_i i j hi hj
    unfold playInRange at h
    split at h
    · cases h; exact Or.inl rfl
    split at h
    · cases h; exact Or.inl rfl
    · rename_i ho hc
      cases h
      exact Or.inr ⟨i, j, boardCoord?_some hi, boardCoord?_some hj, not_not.1 ho, not_not.1 hc, rfl⟩
  · cases h; exact Or.inl rfl

/-- PLAY_AT when the three guards pass (R141). -/
theorem execPlayAt_accepts {row col : Byte} {s : State} {i j : Fin 3} (hi : row.toNat = i.val) (hj : col.toNat = j.val)
    (ho : s.outcome = .inProgress) (hc : s.cell (boardIndex i j) = .empty) :
    execPlayAt row col s = .next (s.acceptMove i j) := by
  simp [execPlayAt, boardCoord?_of_lt hi, boardCoord?_of_lt hj, playInRange, ho, hc]

theorem execPlayAt_next (row col : Byte) (s : State) : ∃ t, execPlayAt row col s = .next t := by
  unfold execPlayAt
  split
  · unfold playInRange
    split
    · exact ⟨_, rfl⟩
    split <;> exact ⟨_, rfl⟩
  · exact ⟨_, rfl⟩

/-! ## Samples (R174, R194) -/

/-- What a sample can do: nothing while the position is the sentinel; otherwise PLAY_AT with the wait ended. -/
theorem takeSample_cases {i : StepInput} {s t : State} (h : takeSample i s = .next t) :
    t = s ∨ ∃ row col, execPlayAt row col (s.setWaiting false) = .next t := by
  unfold takeSample at h
  dsimp only at h
  split at h
  · cases h; exact Or.inl rfl
  · exact Or.inr ⟨_, _, h⟩

theorem takeSample_next (i : StepInput) (s : State) : ∃ t, takeSample i s = .next t := by
  unfold takeSample
  dsimp only
  split
  · exact ⟨_, rfl⟩
  · exact execPlayAt_next _ _ _

end Sys2Proof.Machine
end

