-- ==== Sys2Proof/Laws/PerInstr.lean ====
section
/-! SUPPORT. A law of every instruction's encoding, one lemma per constructor: what the encoder writes has zeros in its
unused fields (R78), or an address of the table (R50). -/

namespace Sys2Proof.Laws

/-- The addresses of the table of R50. -/
def listedAddresses : List Byte :=
  [0x01, 0x02, 0x03, 0x04, 0x05, 0x06, 0x07, 0x08, 0x09, 0x0A, 0x0B, 0x0C, 0x0F]

/-- The encoder writes a command word with zeros in its unused fields (R78), a frame whose address is in the table
(R50), or SET_ROW words alone (R83). -/
def EncodingKind.Statement (i : Instr) : Prop :=
  match encode i with
  | .cmd w => w.canonical = true
  | .frame w => w.addr ∈ listedAddresses
  | .expansion ws => ∀ w ∈ ws, w.op = 0x4 ∧ w.canonical = true

/-- A word is canonical when no bit is set that its opcode leaves unused (R78). -/
theorem canonical_of_bits (op f : BitVec 4) (a b : Byte)
    (h : ∀ i, i < 24 → (unusedMask op).getLsbD i = true → (cmdWord op f a b).getLsbD i = false) :
    (cmdWord op f a b).canonical = true := by
  have ho : (cmdWord op f a b).extractLsb' 20 4 = op := cmdWord_op op f a b
  simp only [CmdWord.canonical, ho, beq_iff_eq]
  apply BitVec.eq_of_getLsbD_eq
  intro i hi
  rw [BitVec.getLsbD_and]
  cases hm : (unusedMask op).getLsbD i
  · simp
  · simp [h i hi hm]

theorem canonical_two_operands (a b : Byte) :
    (cmdWord 0x1 0 a b).canonical = true ∧ (cmdWord 0x4 0 a b).canonical = true ∧
      (cmdWord 0x7 0 a b).canonical = true := by
  refine ⟨?_, ?_, ?_⟩ <;> refine canonical_of_bits _ _ _ _ fun i hi hm => ?_ <;> rw [cmdWord_getLsbD] <;>
    interval_cases i <;> first | exact absurd hm (by decide) | rfl

theorem canonical_devInit (b : Byte) : (cmdWord 0x2 0 0 b).canonical = true := by
  refine canonical_of_bits _ _ _ _ fun i hi hm => ?_
  rw [cmdWord_getLsbD]
  interval_cases i <;> first | exact absurd hm (by decide) | rfl

theorem canonical_setPixel (a b : Byte) (on : Bool) :
    (cmdWord 0x3 (BitVec.ofNat 4 on.toNat) a b).canonical = true := by
  refine canonical_of_bits _ _ _ _ fun i hi hm => ?_
  rw [cmdWord_getLsbD]
  cases on <;> interval_cases i <;> first | exact absurd hm (by decide) | rfl

theorem frame_address_listed (a v : Byte) (h : a ∈ listedAddresses) : (frameWord a v).addr ∈ listedAddresses := by
  have e : (frameWord a v).addr = a := frameWord_high a v
  rw [e]
  exact h

namespace EncodingKind

theorem nop : Statement .nop := (by decide : (cmdWord 0x0 0 0 0).canonical = true)
theorem writeReg (a v : Byte) : Statement (.writeReg a v) := (canonical_two_operands a v).1
theorem devInit (l : Byte) : Statement (.devInit l) := canonical_devInit l
theorem setPixel (r c : Byte) (on : Bool) : Statement (.setPixel r c on) := canonical_setPixel r c on
theorem setRow (r v : Byte) : Statement (.setRow r v) := (canonical_two_operands r v).2.1
theorem clear : Statement .clear := (by decide : (cmdWord 0x5 0 0 0).canonical = true)
theorem gameInit : Statement .gameInit := (by decide : (cmdWord 0x6 0 0 0).canonical = true)
theorem playAt (r c : Byte) : Statement (.playAt r c) := (canonical_two_operands r c).2.2
theorem evaluate : Statement .evaluate := (by decide : (cmdWord 0x8 0 0 0).canonical = true)
theorem awaitMove : Statement .awaitMove := (by decide : (cmdWord 0x9 0 0 0).canonical = true)
theorem reservedA : Statement .reservedA := (by decide : (cmdWord 0xA 0 0 0).canonical = true)
theorem reservedB : Statement .reservedB := (by decide : (cmdWord 0xB 0 0 0).canonical = true)
theorem reservedC : Statement .reservedC := (by decide : (cmdWord 0xC 0 0 0).canonical = true)
theorem reservedD : Statement .reservedD := (by decide : (cmdWord 0xD 0 0 0).canonical = true)
theorem reservedE : Statement .reservedE := (by decide : (cmdWord 0xE 0 0 0).canonical = true)
theorem reservedF : Statement .reservedF := (by decide : (cmdWord 0xF 0 0 0).canonical = true)
theorem setFrame (v0 v1 v2 v3 v4 v5 v6 v7 : Byte) : Statement (.setFrame v0 v1 v2 v3 v4 v5 v6 v7) := by
  intro w hw
  simp only [setFrameWords, List.mem_cons, List.not_mem_nil, or_false] at hw
  rcases hw with rfl | rfl | rfl | rfl | rfl | rfl | rfl | rfl <;>
    exact ⟨cmdWord_op _ _ _ _, (canonical_two_operands _ _).2.1⟩
theorem fRow0 (v : Byte) : Statement (.fRow0 v) := frame_address_listed _ v (by decide)
theorem fRow1 (v : Byte) : Statement (.fRow1 v) := frame_address_listed _ v (by decide)
theorem fRow2 (v : Byte) : Statement (.fRow2 v) := frame_address_listed _ v (by decide)
theorem fRow3 (v : Byte) : Statement (.fRow3 v) := frame_address_listed _ v (by decide)
theorem fRow4 (v : Byte) : Statement (.fRow4 v) := frame_address_listed _ v (by decide)
theorem fRow5 (v : Byte) : Statement (.fRow5 v) := frame_address_listed _ v (by decide)
theorem fRow6 (v : Byte) : Statement (.fRow6 v) := frame_address_listed _ v (by decide)
theorem fRow7 (v : Byte) : Statement (.fRow7 v) := frame_address_listed _ v (by decide)
theorem fDecode (v : Byte) : Statement (.fDecode v) := frame_address_listed _ v (by decide)
theorem fIntensity (v : Byte) : Statement (.fIntensity v) := frame_address_listed _ v (by decide)
theorem fScanLimit (v : Byte) : Statement (.fScanLimit v) := frame_address_listed _ v (by decide)
theorem fShutdown (v : Byte) : Statement (.fShutdown v) := frame_address_listed _ v (by decide)
theorem fDispTest (v : Byte) : Statement (.fDispTest v) := frame_address_listed _ v (by decide)

end EncodingKind

end Sys2Proof.Laws
end

