-- ==== Sys2Proof/Laws/Trace.lean ====
section
/-! SUPPORT. The frames a command calls (R200): what a command emits is their events, in order. -/

namespace Sys2Proof.Machine

/-- Lighting pixels one after another emits the frames of `pixelCalls`. -/
theorem lightPixels_pend (ps : List (Fin 8 × Fin 8)) (s : State) :
    (ps.foldl (fun t p => t.setPixelAt p.1 p.2 true) s).pend = s.pend ++ frames (pixelCalls ps s) := by
  induction ps generalizing s with
  | nil => simp [pixelCalls, frames]
  | cons p ps ih =>
    rw [List.foldl_cons, ih, pixelCalls, State.setPixelAt_eq]
    simp [State.sendRow, State.sendFrame, State.emit, frames]

/-- The pixels' frames depend on the row cache alone. -/
theorem pixelCalls_congr {s t : State} (h : t.rows = s.rows) (ps : List (Fin 8 × Fin 8)) :
    pixelCalls ps t = pixelCalls ps s := by
  induction ps generalizing s t with
  | nil => rfl
  | cons p ps ih =>
    have hr : t.row p.1 = s.row p.1 := by unfold State.row; rw [h]
    simp only [pixelCalls, State.setPixelAt_eq, hr]
    rw [ih (s := s.sendRow p.1 (withPixel (s.row p.1) p.2 true))]
    show t.rows.set p.1 _ = s.rows.set p.1 _
    rw [h]

/-- An accepted move emits the frames of its mark (R142, R147). -/
theorem State.acceptMove_pend (s : State) (i j : Fin 3) :
    (s.acceptMove i j).pend = s.pend ++ frames (pixelCalls (markPixels s.nextPlayer.mark i j) s) := by
  have hc := pixelCalls_congr (s := s)
    (t := (s.putCell (boardIndex i j) s.nextPlayer.mark).countMove.evaluate) rfl (markPixels s.nextPlayer.mark i j)
  exact (lightPixels_pend _ _).trans (congrArg (fun ps => s.pend ++ frames ps) hc)

/-- PLAY_AT emits the frames it calls. -/
theorem execPlayAt_pend {row col : Byte} {s t : State} (h : execPlayAt row col s = .next t) :
    t.pend = s.pend ++ frames (frameCalls (.playAt row col) s) := by
  unfold execPlayAt playInRange at h
  cases hi : boardCoord? row <;> cases hj : boardCoord? col <;> simp only [hi, hj, frameCalls] at h ⊢
  case some.some i j =>
    by_cases ho : s.outcome = .inProgress <;> by_cases hc : s.cell (boardIndex i j) = .empty <;>
      simp [ho, hc] at h ⊢ <;> cases h <;> simp [frames, State.acceptMove_pend]
  all_goals cases h; simp [frames]

/-- Every instruction but SET_FRAME emits exactly the frames it calls, after what is pending (R193, R200). -/
theorem exec_pend {i : Instr} {s t : State} (hi : ∀ v0 v1 v2 v3 v4 v5 v6 v7, i ≠ .setFrame v0 v1 v2 v3 v4 v5 v6 v7)
    (h : exec i s = .next t) : t.pend = s.pend ++ frames (frameCalls i s) := by
  cases i
  case playAt => exact execPlayAt_pend h
  case setFrame => exact absurd rfl (hi _ _ _ _ _ _ _ _)
  case setPixel row col on =>
    simp only [exec, execSetPixel, frameCalls] at h ⊢
    cases hr : displayIndex? row <;> cases hc : displayIndex? col <;> simp only [hr, hc] at h ⊢ <;> cases h <;>
      simp [frames, State.setPixelAt_eq, State.sendRow, State.sendFrame, State.emit]
  case setRow row value =>
    cases h
    simp only [State.setRowAt, frameCalls]
    cases hr : displayIndex? row <;> simp [frames, State.sendRow, State.sendFrame, State.emit]
  case devInit l =>
    cases h
    simp [State.clearRows_eq, State.sendFrame, State.emit, frameCalls, frames]
  all_goals cases h; simp [frameCalls, frames, State.clearRows_eq, State.sendFrame, State.emit]

end Sys2Proof.Machine
end

