-- ==== Sys2Proof/Tests/Slice0.lean ====
section
/-! SUPPORT. Tests. Expected values are the spec's own, from spec/95_test_vectors.md or from the rule named in the
docstring. The last part shows, for each statement with hypotheses, concrete values that meet them all. -/

namespace Sys2Proof.Tests

open Sys2Proof Sys2Proof.Machine

/-! ## Helpers -/

/-- One field of a next state. -/
def fld {α : Type} (r : Result) (f : State → α) : Option α :=
  match r with
  | .next t => some (f t)
  | .fault _ => none
  | .refused _ => none

/-- The reset state beside a device whose shift register holds 0. -/
def start : State := { State.reset with sh := 0 }

/-- Frames as 95_test_vectors.md writes them, `aavv`. -/
def sent (ws : List FrameWord) : List LineEvent := frames (ws.map fun w => (w.addr, w.val))

/-- The digits of 95_test_vectors.md for a board: 0 Empty, 1 Player1, 2 Player2. -/
def digit : Nat → Cell
  | 1 => .player1
  | 2 => .player2
  | _ => .empty

/-- A board from its nine digits. -/
def board (a b c d e f g h i : Nat) : Vector Cell 9 :=
  #v[digit a, digit b, digit c, digit d, digit e, digit f, digit g, digit h, digit i]

/-- A game position: the board, the move count, the next player, the outcome. -/
def game (b : Vector Cell 9) (moves : BitVec 4) (p : Player) (o : GameOutcome) : State :=
  { start with cells := b, moves := moves, nextPlayer := p, outcome := o }

/-- An idle state whose next input offers a command. -/
def offered (w : CmdWord) : State := { start with inputs := [offer w] }

/-- A waiting state whose next input is a sample of the bus. -/
def sampling (s : State) (bus : BitVec 9) (ovr : Bool) (d : BitVec 4) : State :=
  { s with waiting := true, inputs := [⟨false, false, 0, bus, ovr, d⟩] }

/-- A state in which the environment is silent for `k` steps. -/
def quiet (k : Nat) (s : State) : State := { s with inputs := List.replicate k silence }

/-! ## Well-formedness: an ill-formed term for each check, refused -/

/-- R51: only 0x00 is listed. -/
theorem test_wf_fDecode : Instr.wf (.fDecode 0x00) = true ∧ Instr.wf (.fDecode 0x05) = false := by decide

/-- R52: 0x00 to 0x0F. -/
theorem test_wf_fIntensity : Instr.wf (.fIntensity 0x0F) = true ∧ Instr.wf (.fIntensity 0x10) = false := by decide

/-- R53: only 7 is listed. -/
theorem test_wf_fScanLimit : Instr.wf (.fScanLimit 0x07) = true ∧ Instr.wf (.fScanLimit 0x06) = false := by decide

/-- R54: 0 or 1. -/
theorem test_wf_fShutdown : Instr.wf (.fShutdown 0x01) = true ∧ Instr.wf (.fShutdown 0x02) = false := by decide

/-- R55: 0 or 1. -/
theorem test_wf_fDispTest : Instr.wf (.fDispTest 0x01) = true ∧ Instr.wf (.fDispTest 0x02) = false := by decide

/-- R76: every byte is a legal operand of a command. -/
theorem test_wf_commands : Instr.wf (.playAt 0xFF 0xFF) = true ∧ Instr.wf (.devInit 0xFF) = true := by decide

/-- R78: an assembler emits zeros in the unused fields; flags of SET_ROW and operands of NOP are unused. -/
theorem test_canonical : CmdWord.canonical 0x310302 = true ∧ CmdWord.canonical 0x4F0081 = false ∧
    CmdWord.canonical 0x000001 = false ∧ CmdWord.canonical 0x330302 = false := by decide

/-! ## Decoding: words written out from R74, R75 and R70, R50 -/

theorem test_decode_nop : decode (.cmd 0b000000000000000000000000) = .ok (.nop) ∧
    decodeTableWord 24 0x000000 = some (.nop) := by decide
theorem test_decode_writeReg : decode (.cmd 0b000100000000110000000001) = .ok (.writeReg 0x0C 0x01) ∧
    decodeTableWord 24 0x100C01 = some (.writeReg 0x0C 0x01) := by decide
theorem test_decode_devInit : decode (.cmd 0b001000000000000000011111) = .ok (.devInit 0x1F) ∧
    decodeTableWord 24 0x20001F = some (.devInit 0x1F) := by decide
theorem test_decode_setPixel : decode (.cmd 0b001100010000001100000010) = .ok (.setPixel 3 2 true) ∧
    decodeTableWord 24 0x310302 = some (.setPixel 3 2 true) := by decide
theorem test_decode_setRow : decode (.cmd 0b010000001100100011111111) = .ok (.setRow 200 0xFF) ∧
    decodeTableWord 24 0x40C8FF = some (.setRow 200 0xFF) := by decide
theorem test_decode_clear : decode (.cmd 0b010100000000000000000000) = .ok (.clear) ∧
    decodeTableWord 24 0x500000 = some (.clear) := by decide
theorem test_decode_gameInit : decode (.cmd 0b011000000000000000000000) = .ok (.gameInit) ∧
    decodeTableWord 24 0x600000 = some (.gameInit) := by decide
theorem test_decode_playAt : decode (.cmd 0b011100000000001000000001) = .ok (.playAt 2 1) ∧
    decodeTableWord 24 0x700201 = some (.playAt 2 1) := by decide
theorem test_decode_evaluate : decode (.cmd 0b100000000000000000000000) = .ok (.evaluate) ∧
    decodeTableWord 24 0x800000 = some (.evaluate) := by decide
theorem test_decode_awaitMove : decode (.cmd 0b100100000000000000000000) = .ok (.awaitMove) ∧
    decodeTableWord 24 0x900000 = some (.awaitMove) := by decide
theorem test_decode_reservedA : decode (.cmd 0b101000000000000000000000) = .ok (.reservedA) ∧
    decodeTableWord 24 0xA00000 = some (.reservedA) := by decide
theorem test_decode_reservedB : decode (.cmd 0b101100010010001101000101) = .ok (.reservedB) ∧
    decodeTableWord 24 0xB12345 = some (.reservedB) := by decide
theorem test_decode_reservedC : decode (.cmd 0b110000000000000000000000) = .ok (.reservedC) ∧
    decodeTableWord 24 0xC00000 = some (.reservedC) := by decide
theorem test_decode_reservedD : decode (.cmd 0b110100000000000000000000) = .ok (.reservedD) ∧
    decodeTableWord 24 0xD00000 = some (.reservedD) := by decide
theorem test_decode_reservedE : decode (.cmd 0b111000000000000000000000) = .ok (.reservedE) ∧
    decodeTableWord 24 0xE00000 = some (.reservedE) := by decide
theorem test_decode_reservedF : decode (.cmd 0b111100010010001101000101) = .ok (.reservedF) ∧
    decodeTableWord 24 0xF12345 = some (.reservedF) := by decide

/-- R120: bits 3 to 1 of the flags digit are ignored; `0x30AABB` darkens. -/
theorem test_decode_flags : decode (.cmd 0x3E0302) = .ok (.setPixel 3 2 false) ∧
    decode (.cmd 0x3F0302) = .ok (.setPixel 3 2 true) := by decide

/-- R123: the eight words of the spec's example. -/
theorem test_decode_setFrame :
    decode (.expansion [0x400081, 0x400142, 0x400224, 0x400318, 0x400418, 0x400524, 0x400642, 0x400781]) =
      .ok (.setFrame 0x81 0x42 0x24 0x18 0x18 0x24 0x42 0x81) := by decide

theorem test_decodeTableWord_setFrame :
    decodeTableWord 192 0x400781400642400524400418400318400224400142400081 =
      some (.setFrame 0x81 0x42 0x24 0x18 0x18 0x24 0x42 0x81) := by decide

/-- Rows out of order are not the pseudo-instruction. -/
theorem test_decode_not_setFrame :
    decode (.expansion [0x400181, 0x400042, 0x400224, 0x400318, 0x400418, 0x400524, 0x400642, 0x400781]) =
      .error .notAnExpansion := by decide

theorem test_decode_fRow0 : decode (.frame 0b0000000110000001) = .ok (.fRow0 0x81) ∧
    decodeTableWord 16 0x0181 = some (.fRow0 0x81) := by decide
theorem test_decode_fRow1 : decode (.frame 0b0000001010000001) = .ok (.fRow1 0x81) ∧
    decodeTableWord 16 0x0281 = some (.fRow1 0x81) := by decide
theorem test_decode_fRow2 : decode (.frame 0b0000001110000001) = .ok (.fRow2 0x81) ∧
    decodeTableWord 16 0x0381 = some (.fRow2 0x81) := by decide
theorem test_decode_fRow3 : decode (.frame 0b0000010010000001) = .ok (.fRow3 0x81) ∧
    decodeTableWord 16 0x0481 = some (.fRow3 0x81) := by decide
theorem test_decode_fRow4 : decode (.frame 0b0000010110000001) = .ok (.fRow4 0x81) ∧
    decodeTableWord 16 0x0581 = some (.fRow4 0x81) := by decide
theorem test_decode_fRow5 : decode (.frame 0b0000011010000001) = .ok (.fRow5 0x81) ∧
    decodeTableWord 16 0x0681 = some (.fRow5 0x81) := by decide
theorem test_decode_fRow6 : decode (.frame 0b0000011110000001) = .ok (.fRow6 0x81) ∧
    decodeTableWord 16 0x0781 = some (.fRow6 0x81) := by decide
theorem test_decode_fRow7 : decode (.frame 0b0000100010000001) = .ok (.fRow7 0x81) ∧
    decodeTableWord 16 0x0881 = some (.fRow7 0x81) := by decide
theorem test_decode_fDecode : decode (.frame 0b0000100100000000) = .ok (.fDecode 0x00) ∧
    decodeTableWord 16 0x0900 = some (.fDecode 0x00) := by decide
theorem test_decode_fIntensity : decode (.frame 0b0000101000001111) = .ok (.fIntensity 0x0F) ∧
    decodeTableWord 16 0x0A0F = some (.fIntensity 0x0F) := by decide
theorem test_decode_fScanLimit : decode (.frame 0b0000101100000111) = .ok (.fScanLimit 0x07) ∧
    decodeTableWord 16 0x0B07 = some (.fScanLimit 0x07) := by decide
theorem test_decode_fShutdown : decode (.frame 0b0000110000000001) = .ok (.fShutdown 0x01) ∧
    decodeTableWord 16 0x0C01 = some (.fShutdown 0x01) := by decide
theorem test_decode_fDispTest : decode (.frame 0b0000111100000000) = .ok (.fDispTest 0x00) ∧
    decodeTableWord 16 0x0F00 = some (.fDispTest 0x00) := by decide

/-- R50: 0x00, 0x0D, 0x0E and 0x10 are in no row. -/
theorem test_decode_unlisted : [0x0012, 0x0D12, 0x0E12, 0x1012].map (fun w => decode (.frame w)) =
    List.replicate 4 (.error .unlistedDeviceAddress) := by decide

/-! ## The serial frame and its commands -/

/-- SV1: the sixteen levels of DATA of frame 0x0C01, in order. -/
theorem test_frame_data : ((frame 0x0C 0x01).filter (·.line == .data)).map (·.level) =
    [false, false, false, false, true, true, false, false, false, false, false, false, false, false, false, true] := by
  decide

/-- SV1: the receiver ends with SH = 0x0C01, writes DEV[0x0C], and the lines end at 1, 1, 1. -/
theorem test_frame_received : (start.performAll (sent [0x0C01])).sh = 0x0C01 ∧
    (start.performAll (sent [0x0C01])).dev = [(0x0C, 0x01)] ∧ (start.performAll (sent [0x0C01])).data = true := by
  decide

/-- R101: the example's frame; the cache is untouched, even by a row address (R254). -/
theorem test_writeReg : fld (exec (.writeReg 0x01 0xAA) start) (fun t => (t.pend, t.rows)) =
    some (sent [0x01AA], Vector.replicate 8 0x00#8) := by decide

/-- P1: DEV_INIT 0x1F sends thirteen frames, the intensity masked. -/
theorem test_devInit : fld (exec (.devInit 0x1F) start) (·.pend) =
    some (sent [0x0900, 0x0B07, 0x0C01, 0x0F00, 0x0100, 0x0200, 0x0300, 0x0400, 0x0500, 0x0600, 0x0700, 0x0800,
      0x0A0F]) := by decide +kernel

/-- P1: what the receiver holds after the boot. -/
theorem test_devInit_device : fld (exec (.devInit 0x1F) start) (fun t => (t.settle.dev, t.settle.sh)) =
    some ([(0x01, 0x00), (0x02, 0x00), (0x03, 0x00), (0x04, 0x00), (0x05, 0x00), (0x06, 0x00), (0x07, 0x00),
      (0x08, 0x00), (0x09, 0x00), (0x0A, 0x0F), (0x0B, 0x07), (0x0C, 0x01), (0x0F, 0x00)], 0x0A0F) := by
  decide +kernel

/-! ## The display commands -/

/-- R120: with ROW[3] = 0x18, SET_PIXEL 3, 2, 1 gives 0x38 and frame 0x0438. -/
theorem test_setPixel : fld (exec (.setPixel 3 2 true) (start.putRow 3 0x18)) (fun t => (t.row 3, t.pend)) =
    some (0x38, sent [0x0438]) := by decide

/-- P4: SET_PIXEL 0, 0, 0 on 0x81 gives 0x01; SET_PIXEL 0, 9, 1 does nothing. -/
theorem test_setPixel_off : fld (exec (.setPixel 0 0 false) (start.putRow 0 0x81)) (·.row 0) = some 0x01 ∧
    fld (exec (.setPixel 0 9 true) start) id = some start := by decide

/-- R121: SET_ROW 0, 0x81 and the no-op SET_ROW 200, 0xFF. -/
theorem test_setRow : fld (exec (.setRow 0 0x81) start) (fun t => (t.row 0, t.pend)) = some (0x81, sent [0x0181]) ∧
    fld (exec (.setRow 200 0xFF) start) id = some start := by decide

/-- R122: CLEAR. -/
theorem test_clear : fld (exec .clear (start.putRow 5 0xFF)) (fun t => (t.rows, t.pend)) =
    some (Vector.replicate 8 0x00#8, sent [0x0100, 0x0200, 0x0300, 0x0400, 0x0500, 0x0600, 0x0700, 0x0800]) := by
  decide +kernel

/-- P4: the rows after SET_FRAME, and the device once the last frame is out. -/
theorem test_setFrame : fld (exec (.setFrame 0x81 0x42 0x24 0x18 0x18 0x24 0x42 0x81) start)
    (fun t => (t.rows, t.settle.dev)) =
    some (#v[0x81, 0x42, 0x24, 0x18, 0x18, 0x24, 0x42, 0x81],
      [(1, 0x81), (2, 0x42), (3, 0x24), (4, 0x18), (5, 0x18), (6, 0x24), (7, 0x42), (8, 0x81)]) := by decide +kernel

/-! ## The game commands -/

/-- GI1: GAME_INIT after P2 empties the board and leaves the rows. -/
theorem test_gameInit : fld (exec .gameInit ((game (board 1 2 0 2 1 0 0 0 1) 5 .player2 .player1Wins).putRow 0 0xD0))
    (fun t => (t.cells, t.moves, t.outcome, t.row 0, t.pend)) =
    some (Vector.replicate 9 .empty, 0, .inProgress, 0xD0, []) := by decide

/-- R141: PLAY_AT 1, 1 from reset. -/
theorem test_playAt : fld (exec (.playAt 1 1) start) (fun t => (t.cells, t.moves, t.nextPlayer, t.row 3, t.pend)) =
    some (board 0 0 0 0 1 0 0 0 0, 1, .player2, 0x18, sent [0x0410, 0x0418, 0x0510, 0x0518]) := by
  decide +kernel

/-- GW3: a win on the ninth move is a win, not a draw. -/
theorem test_playAt_ninth : fld (exec (.playAt 2 2) (game (board 1 2 1 2 1 2 2 1 0) 8 .player1 .inProgress))
    (fun t => (t.outcome, t.moves, t.nextPlayer)) = some (.player1Wins, 9, .player2) := by decide

/-- R144, R145: on a board with lines of both players the first in scan order decides: row 0 before row 2. -/
theorem test_evaluate : fld (exec .evaluate (game (board 2 2 2 0 0 0 1 1 1) 6 .player1 .player1Wins)) (·.outcome) =
    some .player2Wins ∧
    fld (exec .evaluate (game (board 1 1 1 2 0 0 0 0 0) 4 .player1 .inProgress)) (·.outcome) =
      some .inProgress := by decide

/-! ## Waiting for a move -/

theorem test_awaitMove : fld (exec .awaitMove start) (fun t => (t.waiting, t.cmdReady)) = some (true, false) := by decide

/-- P6, step 213: the override wins over the bus; Player2 takes cell (2,2); frames 0702, 0801. -/
theorem test_awaitMove_sample :
    fld (step (sampling (game (board 0 0 0 0 1 0 0 0 0) 1 .player2 .inProgress) 0x010 true 0))
      (fun t => (t.cells, t.waiting, t.pend)) =
    some (board 0 0 0 0 1 0 0 0 2, false, sent [0x0702, 0x0801]) := by decide

/-- IN1. -/
theorem test_decodePosition : decodePosition 0x000 false 7 = 0 ∧ decodePosition 0x100 false 7 = 9 ∧
    decodePosition 0x1FF true 7 = 9 ∧ decodePosition 0x011 false 7 = 7 := by decide

/-- IN2: from the end of P6 a multi-hot bus with draws 0, 5 and 12: still waiting; and twice completed without effect. -/
theorem test_multiHot :
    fld (step (sampling (game (board 0 0 0 0 1 0 0 0 2) 2 .player1 .inProgress) 0x003 false 0)) (·.waiting) =
      some true ∧
    fld (step (sampling (game (board 0 0 0 0 1 0 0 0 2) 2 .player1 .inProgress) 0x003 false 5))
      (fun t => (t.waiting, t.moves, t.pend)) = some (false, 2, []) ∧
    fld (step (sampling (game (board 0 0 0 0 1 0 0 0 2) 2 .player1 .inProgress) 0x003 false 12))
      (fun t => (t.waiting, t.moves, t.pend)) = some (false, 2, []) := by decide

/-! ## NOP and the reserved commands -/

/-- CT2: NOP, its unused fields set or not. -/
theorem test_nop : fld (step (offered 0x000000)) id = some start ∧ fld (step (offered 0x0FFFFF)) id = some start := by
  decide

/-- CT3, R198. -/
theorem test_reservedA : fld (step (offered 0xA00000)) id = some start := by decide

/-- CT3, R198. -/
theorem test_reservedB : fld (step (offered 0xB12345)) id = some start := by decide

/-- CT3, R198. -/
theorem test_reservedC : fld (step (offered 0xC00000)) id = some start := by decide

/-- CT3, R198. -/
theorem test_reservedD : fld (step (offered 0xD00000)) id = some start := by decide

/-- CT3, R198. -/
theorem test_reservedE : fld (step (offered 0xE00000)) id = some start := by decide

/-- CT3, R198. -/
theorem test_reservedF : fld (step (offered 0xFFFFFF)) id = some start := by decide

/-! ## The device's frames: one step that latches the frame (R47), from `withFetchWord` -/

theorem test_fRow0 : fld (step (start.withFetchWord 16 0x0181)) (fun t => (t.dev, t.cs)) =
    some ([(0x01, 0x81)], true) := by decide
theorem test_fRow1 : fld (step (start.withFetchWord 16 0x0281)) (fun t => (t.dev, t.cs)) =
    some ([(0x02, 0x81)], true) := by decide
theorem test_fRow2 : fld (step (start.withFetchWord 16 0x0381)) (fun t => (t.dev, t.cs)) =
    some ([(0x03, 0x81)], true) := by decide
theorem test_fRow3 : fld (step (start.withFetchWord 16 0x0481)) (fun t => (t.dev, t.cs)) =
    some ([(0x04, 0x81)], true) := by decide
theorem test_fRow4 : fld (step (start.withFetchWord 16 0x0581)) (fun t => (t.dev, t.cs)) =
    some ([(0x05, 0x81)], true) := by decide
theorem test_fRow5 : fld (step (start.withFetchWord 16 0x0681)) (fun t => (t.dev, t.cs)) =
    some ([(0x06, 0x81)], true) := by decide
theorem test_fRow6 : fld (step (start.withFetchWord 16 0x0781)) (fun t => (t.dev, t.cs)) =
    some ([(0x07, 0x81)], true) := by decide
theorem test_fRow7 : fld (step (start.withFetchWord 16 0x0881)) (fun t => (t.dev, t.cs)) =
    some ([(0x08, 0x81)], true) := by decide
theorem test_fDecode : fld (step (start.withFetchWord 16 0x0900)) (fun t => (t.dev, t.cs)) =
    some ([(0x09, 0x00)], true) := by decide
theorem test_fIntensity : fld (step (start.withFetchWord 16 0x0A0F)) (fun t => (t.dev, t.cs)) =
    some ([(0x0A, 0x0F)], true) := by decide
theorem test_fScanLimit : fld (step (start.withFetchWord 16 0x0B07)) (fun t => (t.dev, t.cs)) =
    some ([(0x0B, 0x07)], true) := by decide
theorem test_fShutdown : fld (step (start.withFetchWord 16 0x0C01)) (fun t => (t.dev, t.cs)) =
    some ([(0x0C, 0x01)], true) := by decide
theorem test_fDispTest : fld (step (start.withFetchWord 16 0x0F00)) (fun t => (t.dev, t.cs)) =
    some ([(0x0F, 0x00)], true) := by decide

/-- U6: an address outside the table is stored all the same. -/
theorem test_unlisted_latched : fld (step (start.withFetchWord 16 0x1012)) (·.dev) = some [(0x10, 0x12)] := by decide

/-! ## Steps -/

/-- The next step runs the word `withFetchWord` places. -/
theorem test_withFetchWord : fld (step (State.reset.withFetchWord 24 0x310000)) (·.row 0) = some 0x80 ∧
    fld (step (State.reset.withFetchWord 192 0x400781400642400524400418400318400224400142400081)) (·.row 0) =
      some 0x81 := by decide

/-- RS1, k = 53: a reset while CS is low latches what SH holds; with CS high it latches nothing (k = 20). -/
theorem test_reset_latches :
    fld (step { start with sh := 0x01FF, cs := false, pend := [⟨.cs, true⟩], inputs := [⟨true, true, 0x500000, 0, false, 0⟩] })
      (fun t => (t.dev, t.cs, t.pend)) = some ([(0x01, 0xFF)], true, []) ∧
    fld (step { start with sh := 0x01FF, inputs := [⟨true, true, 0x500000, 0, false, 0⟩] }) (·.dev) = some [] := by decide

/-- GT: the turn indicators after reset, after one move, and after a win. -/
theorem test_turn : (start.turnP1, start.turnP2) = (true, false) ∧
    ((game (board 1 0 0 0 0 0 0 0 0) 1 .player2 .inProgress).turnP1,
      (game (board 1 0 0 0 0 0 0 0 0) 1 .player2 .inProgress).turnP2) = (false, true) ∧
    ((game (board 1 2 0 2 1 0 0 0 1) 5 .player2 .player1Wins).turnP1,
      (game (board 1 2 0 2 1 0 0 0 1) 5 .player2 .player1Wins).turnP2) = (false, false) := by decide

/-- R148: the picture of P2's last board, D0 C8 00 98 58 00 03 03. -/
theorem test_picture : (List.finRange 8).map (pictureRow (board 1 2 0 2 1 0 0 0 1)) =
    [0xD0, 0xC8, 0x00, 0x98, 0x58, 0x00, 0x03, 0x03] := by decide

/-- R200: the calls of PLAY_AT 0, 0 on a blank board, `0180 01C0 0280 02C0` (95_test_vectors.md). -/
theorem test_frameCalls_playAt : frameCalls (.playAt 0 0) start = [(0x01, 0x80), (0x01, 0xC0), (0x02, 0x80), (0x02, 0xC0)] := by
  decide

/-! ## Witnesses: values that meet the hypotheses of each statement -/

/-- A game in progress with six moves made and no line. -/
def midGame : State := game (board 1 2 1 1 2 2 0 0 0) 6 .player1 .inProgress

/-- The board of P3 before its ninth move. -/
def lastMove : State := game (board 1 2 1 1 2 2 2 1 0) 8 .player1 .inProgress

/-- The end of P2. -/
def won : State := game (board 1 2 0 2 1 0 0 0 1) 5 .player2 .player1Wins

/-- A board with no line and nine marks: the end of P3. -/
def full : State := game (board 1 2 1 1 2 2 2 1 1) 9 .player2 .draw

/-- A device that holds the settings of DEV_INIT and the rows of `start`. -/
def booted : State :=
  { start with dev := [(1, 0), (2, 0), (3, 0), (4, 0), (5, 0), (6, 0), (7, 0), (8, 0), (9, 0), (10, 15), (11, 7),
      (12, 1), (15, 0)] }

/-- The same device, with a command offered that lights pixel (0, 0). -/
def bootedOffered : State := { booted with inputs := [offer 0x310000] }

/-- A frame and one more event are pending, and no reset comes for 51 steps. -/
def sending : State := { quiet 51 start with pend := frame 0x01 0xFF ++ [⟨.cs, true⟩] }

/-- Two frames are pending, and no reset comes for 102 steps. -/
def sendingTwo : State := { quiet 102 start with pend := sent [0x0181, 0x0242] }

/-- SET_ROW 0, 0x81 is offered for the step that accepts it and the 51 that send its frame. -/
def rowOffered : State := { start with inputs := offer 0x400081 :: List.replicate 51 (offer 0x400081) }

/-- An AWAIT_MOVE waits and the bus is silent for three steps. -/
def silentWait : State := { quiet 3 start with waiting := true }

/-- A state in the middle of a frame: the chip select is low and its rise is pending. -/
def latching : State := { start with sh := 0x0A0F, cs := false, pend := [⟨.cs, true⟩], inputs := [silence] }

theorem witness_decodingLaw : CmdWord.canonical 0x310302 = true ∧
    (0x310302#24).extractLsb' 20 4 = (0x3F0302#24).extractLsb' 20 4 ∧
    0x310302#24 &&& ~~~(unusedMask ((0x310302#24).extractLsb' 20 4)) =
      0x3F0302#24 &&& ~~~(unusedMask ((0x310302#24).extractLsb' 20 4)) := by decide

theorem witness_frameIsTheFiftyOneEvents : 0 < 8 ∧ 7 < 8 ∧ (frame 0x0C 0x01)[3 * 7 + 25]? = some ⟨.data, true⟩ := by decide

theorem witness_frameFromHighCs : start.cs = true ∧ (0x0D#8 ≠ 0x0C#8) := by decide

theorem witness_frameFromLowCs : latching.cs = false := by decide

theorem witness_framesAreLatchedInOrder : start.cs = true ∧
    (∀ q ∈ [((0x02 : Byte), (0x55 : Byte)), (0x00, 0x55)], q.1 ≠ (0x01 : Byte)) := ⟨rfl, by simp⟩

theorem witness_pendingFrame : sending.pend = frame 0x01 0xFF ++ [⟨.cs, true⟩] ∧ sending.cs = true ∧
    NoReset 51 sending ∧ 0x02#8 ≠ 0x01#8 := ⟨rfl, rfl, by unfold NoReset; decide, by decide⟩

theorem witness_restsHigh : RestsHigh start ∧ (0x00#8 ≠ 0x0C#8) := ⟨rfl, by decide⟩

/-- R105: in the middle of a frame the chip select will rest high too. -/
theorem witness_restsHigh_latching : RestsHigh latching := rfl

theorem witness_devInit_next : start.pend = [] ∧ ∃ t, exec (.devInit 0x1F) start = .next t := ⟨rfl, _, rfl⟩

/-- The last clause of `DeviceAfterDevInit` at the bounds of its range. -/
theorem witness_deviceAfterDevInit : RestsHigh start ∧ ∀ a ∈ [0x00#8, 0x0D#8, 0x0E#8, 0x10#8, 0xFF#8],
    ¬ (0x01#8 ≤ a ∧ a ≤ 0x0C#8) ∧ a ≠ 0x0F#8 := ⟨rfl, by decide⟩

theorem witness_setPixelInRange : (0x07#8).toNat = (7 : Fin 8).val ∧ (0x00#8).toNat = (0 : Fin 8).val ∧
    (6 : Fin 8) ≠ 7 := by decide

theorem witness_setPixel_commutes : (0x07#8).toNat < 8 ∧ (0x00#8).toNat < 8 ∧ ((0x07#8, 0x00#8) ≠ (0x07#8, 0x01#8)) ∧
    ∃ t u t' u', exec (.setPixel 7 0 true) start = .next t ∧ exec (.setPixel 7 1 true) t = .next u ∧
      exec (.setPixel 7 1 true) start = .next t' ∧ exec (.setPixel 7 0 true) t' = .next u' :=
  ⟨by decide, by decide, by decide, _, _, _, _, rfl, rfl, rfl, rfl⟩

theorem witness_outOfRangeDisplay : 7 < (0x08#8).toNat ∧ 7 < (0xFF#8).toNat := by decide

theorem witness_setRow : (0x07#8).toNat = (7 : Fin 8).val ∧ (0 : Fin 8) ≠ 7 ∧ 7 < (0x08#8).toNat := by decide

theorem witness_setFrameDelivers : RestsHigh start ∧ ∀ a ∈ [0x00#8, 0x09#8, 0xFF#8], ¬ (0x01#8 ≤ a ∧ a ≤ 0x08#8) :=
  ⟨rfl, by decide⟩

theorem witness_setFrameIsItsEightCommands : Idle start := ⟨rfl, rfl⟩

/-- One state for each of the four conditions of an ignored move. -/
theorem witness_ignoredPlayAt : 2 < (0x03#8).toNat ∧ 2 < (0xFF#8).toNat ∧ won.outcome ≠ .inProgress ∧
    (∃ i j : Fin 3, (0x00#8).toNat = i.val ∧ (0x00#8).toNat = j.val ∧ midGame.cell (boardIndex i j) ≠ .empty) := by
  decide

theorem witness_acceptedPlayAt : (0x02#8).toNat = (2 : Fin 3).val ∧ lastMove.outcome = .inProgress ∧
    lastMove.cell (boardIndex 2 2) = .empty := by decide

/-- The same with Player2 to move. -/
theorem witness_acceptedPlayAt_player2 : (0x00#8).toNat = (0 : Fin 3).val ∧
    (game (board 0 0 0 0 1 0 0 0 0) 1 .player2 .inProgress).outcome = .inProgress ∧
    (game (board 0 0 0 0 1 0 0 0 0) 1 .player2 .inProgress).cell (boardIndex 0 0) = .empty ∧
    (game (board 0 0 0 0 1 0 0 0 0) 1 .player2 .inProgress).nextPlayer = .player2 := by decide

theorem witness_acceptedMove : ∃ t, exec (.playAt 2 2) lastMove = .next t ∧ t.cells ≠ lastMove.cells :=
  ⟨lastMove.acceptMove 2 2, rfl, by decide⟩

/-- The clauses of `EvaluateScansTheLinesInOrder` at the ends of their ranges: four moves; five moves with the first line
or the last line alone; no line at five moves and at nine. -/
theorem witness_evaluateScans :
    (game (board 1 2 1 2 0 0 0 0 0) 4 .player1 .inProgress).moves < 5#4 ∧
    (5#4 ≤ won.moves ∧ boardLines[6]? = some (0, 4, 8) ∧ won.cell 0 = Player.player1.mark ∧
      won.cell 4 = Player.player1.mark ∧ won.cell 8 = Player.player1.mark ∧
      ∀ (m : Fin 6), ∀ l' ∈ boardLines[m.val]?, ¬ (won.cell l'.1 ≠ .empty ∧ won.cell l'.1 = won.cell l'.2.1 ∧
        won.cell l'.2.1 = won.cell l'.2.2)) ∧
    (5#4 ≤ midGame.moves ∧ ¬ HasLine midGame.cells .player1 ∧ ¬ HasLine midGame.cells .player2 ∧
      midGame.moves ≠ 9#4) ∧
    (5#4 ≤ full.moves ∧ ¬ HasLine full.cells .player1 ∧ ¬ HasLine full.cells .player2 ∧ full.moves = 9#4) := by
  decide +kernel

theorem witness_evaluate_lastLine : 5#4 ≤ (game (board 2 2 1 0 1 0 1 0 0) 5 .player2 .inProgress).moves ∧
    boardLines[7]? = some (6, 4, 2) ∧ (game (board 2 2 1 0 1 0 1 0 0) 5 .player2 .inProgress).cell 6 = Player.player1.mark ∧
    (game (board 2 2 1 0 1 0 1 0 0) 5 .player2 .inProgress).cell 4 = Player.player1.mark ∧
    (game (board 2 2 1 0 1 0 1 0 0) 5 .player2 .inProgress).cell 2 = Player.player1.mark ∧
    ∀ m : Fin 7, lineOwner? (board 2 2 1 0 1 0 1 0 0) (boardLines[m.val]'(by have := m.isLt; simp [boardLines]; omega)) = none := by decide

/-- The first line, with nothing before it. -/
theorem witness_evaluate_firstLine : 5#4 ≤ (game (board 2 2 2 1 1 0 1 0 0) 6 .player1 .inProgress).moves ∧
    boardLines[0]? = some (0, 1, 2) ∧ (game (board 2 2 2 1 1 0 1 0 0) 6 .player1 .inProgress).cell 0 = Player.player2.mark ∧
    (game (board 2 2 2 1 1 0 1 0 0) 6 .player1 .inProgress).cell 1 = Player.player2.mark ∧
    (game (board 2 2 2 1 1 0 1 0 0) 6 .player1 .inProgress).cell 2 = Player.player2.mark := by decide

theorem witness_gameInv_midGame : GameInv midGame := by constructor <;> decide

theorem witness_gameInv_won : GameInv won ∧ won.outcome ≠ .inProgress := ⟨by constructor <;> decide, by decide⟩

theorem witness_gameInv_full : GameInv full := by constructor <;> decide

theorem witness_noWinBelowFive : (game (board 1 2 1 0 0 0 0 0 0) 3 .player2 .inProgress).outcome = .inProgress ∧
    (game (board 1 2 1 0 0 0 0 0 0) 3 .player2 .inProgress).moves < 5#4 ∧
    ∃ t, exec (.playAt 1 0) (game (board 1 2 1 0 0 0 0 0 0) 3 .player2 .inProgress) = .next t ∧ t.moves < 5#4 :=
  ⟨by decide, by decide,
    (game (board 1 2 1 0 0 0 0 0 0) 3 .player2 .inProgress).acceptMove 1 0, rfl, by decide⟩

theorem witness_fullBoard : ∃ t, exec (.playAt 2 2) lastMove = .next t ∧ t.cells ≠ lastMove.cells ∧
    lastMove.moves = 8#4 ∧ ¬ HasLine t.cells .player1 ∧ ¬ HasLine t.cells .player2 :=
  ⟨lastMove.acceptMove 2 2, rfl, by decide, by decide, by decide, by decide⟩

theorem witness_everyStepKeepsGame : GameInv (quiet 1 won) ∧ (quiet 1 won).outcome ≠ .inProgress ∧
    ∃ t, step (quiet 1 won) = .next t := ⟨by constructor <;> decide, by decide, _, rfl⟩

theorem witness_playing : ShowsBoard (offered 0x700101) ∧
    (∀ i, acceptedCommand? (offered 0x700101) = some i → playsOnly i) ∧ ∃ t, step (offered 0x700101) = .next t := by
  refine ⟨by unfold ShowsBoard; decide, ?_, _, rfl⟩
  intro i h
  have e : acceptedCommand? (offered 0x700101) = some (.playAt 1 1) := by decide
  rw [e] at h
  cases h
  trivial

theorem witness_positionDecode : 0 < 9 ∧ 8 < 9 ∧ (0x003#9 ≠ 0#9 ∧ ∀ k : Fin 9, 0x003#9 ≠ 1#9 <<< k.val) ∧
    (0x1FF#9 ≠ 0#9 ∧ ∀ k : Fin 9, 0x1FF#9 ≠ 1#9 <<< k.val) := by decide

theorem witness_positionToCoordinates : (1#4 ≠ 0#4 ∧ (1#4).toNat ≤ 9) ∧ (9#4 ≠ 0#4 ∧ (9#4).toNat ≤ 9) ∧
    (10#4 ≠ 0#4 ∧ 10 ≤ (10#4).toNat) ∧ (15#4 ≠ 0#4 ∧ 10 ≤ (15#4).toNat) := by decide

theorem witness_sample : (sampling start 0x010 false 0).inputs = [⟨false, false, 0, 0x010, false, 0⟩] ∧
    (sampling start 0x010 false 0).pend = [] ∧ (sampling start 0x010 false 0).waiting = true ∧
    (sampling start 0x010 false 0).takeInput.1.rst = false ∧ ∃ t, step (sampling start 0x010 false 0) = .next t :=
  ⟨rfl, rfl, rfl, rfl, _, rfl⟩

theorem witness_silentBus : silentWait.pend = [] ∧ silentWait.waiting = true ∧ NoReset 3 silentWait ∧
    ∀ i ∈ silentWait.inputs.take 3, decodePosition i.posBus i.posOvr i.draw = 0#4 :=
  ⟨rfl, rfl, by unfold NoReset; decide, by decide⟩

theorem witness_latchedFrame : (Instr.fShutdown 0x01, 0x0C#8) ∈
    [(Instr.fRow0 0x01, 0x01#8), (.fRow1 0x01, 0x02#8), (.fRow2 0x01, 0x03#8), (.fRow3 0x01, 0x04#8),
      (.fRow4 0x01, 0x05#8), (.fRow5 0x01, 0x06#8), (.fRow6 0x01, 0x07#8), (.fRow7 0x01, 0x08#8), (.fDecode 0x01, 0x09#8),
      (.fIntensity 0x01, 0x0A#8), (.fScanLimit 0x01, 0x0B#8), (.fShutdown 0x01, 0x0C#8), (.fDispTest 0x01, 0x0F#8)] ∧
    0x0D#8 ≠ 0x0C#8 := by simp

theorem witness_pixelIsLit : (booted.dev.read 0x09 = 0x00#8 ∧ booted.dev.read 0x0B = 0x07#8 ∧
      booted.dev.read 0x0C = 0x01#8 ∧ booted.dev.read 0x0F = 0x00#8) ∧
    (booted.latchPair 0x09 0x01).dev.read 0x09 ≠ 0x00#8 ∧ (booted.latchPair 0x0B 0x06).dev.read 0x0B ≠ 0x07#8 ∧
    (booted.latchPair 0x0C 0x00).dev.read 0x0C ≠ 0x01#8 ∧ (booted.latchPair 0x0F 0x01).dev.read 0x0F ≠ 0x00#8 := by
  decide

theorem witness_mirror : RestsHigh bootedOffered ∧ Mirrors bootedOffered ∧ bootedOffered.takeInput.1.rst = false ∧
    (∀ i, acceptedCommand? bootedOffered = some i → ¬ rawRowWrite i) ∧ ∃ t, step bootedOffered = .next t := by
  refine ⟨rfl, by unfold Mirrors; decide, rfl, ?_, _, rfl⟩
  intro i h
  have e : acceptedCommand? bootedOffered = some (.setPixel 0 0 true) := by decide
  rw [e] at h
  cases h
  exact id

/-- WRITE_REG to 0x09, just outside the row registers, meets the premise too; to 0x08 it does not. -/
theorem witness_mirror_writeReg : ¬ rawRowWrite (.writeReg 0x09 0x00) ∧ ¬ rawRowWrite (.writeReg 0x00 0x00) ∧
    rawRowWrite (.writeReg 0x08 0x00) ∧ rawRowWrite (.writeReg 0x01 0x00) := by unfold rawRowWrite; decide

theorem witness_chipSelect : RestsHigh latching ∧ ∃ t, step latching = .next t := ⟨rfl, _, rfl⟩

theorem witness_stepRunsCommand : (offered 0x700101).inputs = [offer 0x700101] ∧ (offer 0x700101).rst = false ∧
    (offer 0x700101).cmdValid = true ∧ Idle (offered 0x700101) := ⟨rfl, rfl, rfl, rfl, rfl⟩

theorem witness_stepRunsFrame : latching.inputs = [silence] ∧ silence.rst = false ∧ latching.pend = [⟨.cs, true⟩] ∧
    latching.cs = false ∧ decode (.frame latching.sh) = .ok (.fIntensity 0x0F) := by decide

/-- One event of each line is pending: the premises of `DrainingPerformsOneEvent`. -/
theorem witness_draining : latching.inputs = [silence] ∧ silence.rst = false ∧
    latching.pend = [⟨.cs, true⟩] ∧ latching.cs = false ∧
    ({ latching with pend := [⟨.clock, true⟩] } : State).pend = [⟨.clock, true⟩] ∧ latching.clock = false ∧
    ({ latching with pend := [⟨.data, true⟩] } : State).pend = [⟨.data, true⟩] := by decide

theorem witness_pendingDrain : NoReset latching.pend.length latching ∧ NoReset sendingTwo.pend.length sendingTwo := by
  unfold NoReset; decide

theorem witness_reset : ({ latching with inputs := [⟨true, true, 0x500000, 0, false, 0⟩] } : State).inputs =
    [⟨true, true, 0x500000, 0, false, 0⟩] ∧ latching.cs = false ∧ start.cs = true := by decide

theorem witness_busy : latching.cmdReady = false ∧ (sampling start 0 false 0).cmdReady = false ∧
    (quiet 1 start).inputs = [silence] ∧ silence.cmdValid = false ∧ silence.rst = false ∧ Idle (quiet 1 start) :=
  ⟨rfl, rfl, rfl, rfl, rfl, rfl, rfl⟩

theorem witness_notWaiting : start.waiting = false := rfl

theorem witness_ownState : (∃ t, exec (.writeReg 0x01 0xFF) start = .next t) ∧
    (∀ row col, Instr.writeReg 0x01 0xFF ≠ .playAt row col) ∧ ∃ w : CmdWord, Instr.writeReg 0x01 0xFF = decodeCmd w :=
  ⟨⟨_, rfl⟩, fun _ _ h => Instr.noConfusion h, 0x1001FF, by decide⟩

theorem witness_canonicalMemory : bootedOffered.dev.wf ∧ ∃ t, step bootedOffered = .next t := ⟨by decide, _, rfl⟩

theorem witness_waitingHasNothingPending : ((sampling start 0x000 false 0).waiting = true →
    (sampling start 0x000 false 0).pend = []) ∧ ∃ t, step (sampling start 0x000 false 0) = .next t ∧ t.waiting = true :=
  ⟨fun _ => rfl, _, rfl, rfl⟩

theorem witness_frameTrace : sendingTwo.pend = frames [(0x01, 0x81), (0x02, 0x42)] ∧ sendingTwo.cs = true ∧
    NoReset (51 * 2) sendingTwo := ⟨by decide, rfl, by unfold NoReset; decide⟩

/-- A run that accepts a command and ends with nothing pending, and one that only drains. -/
theorem witness_frameTrace_run :
    (rowOffered.pend = frames [] ∧ rowOffered.cs = true ∧ NoReset (51 + 1) rowOffered ∧
      ∃ t, runSteps (51 + 1) rowOffered = .next t ∧ t.pend = []) ∧
    ∃ t, runSteps 102 sendingTwo = .next t ∧ t.pend = [] := by
  refine ⟨⟨rfl, rfl, by unfold NoReset; decide, ?_⟩, ?_⟩
  · have h : step rowOffered = .next ({ rowOffered with inputs := List.replicate 51 (offer 0x400081) }.setRowAt 0 0x81) := rfl
    exact ⟨_, (runSteps_next 51 h).trans (run_drains (frame 0x01 0x81) [] _ rfl (by unfold NoReset; decide)), rfl⟩
  · exact ⟨_, run_drains sendingTwo.pend [] _ (List.append_nil _).symm (by unfold NoReset; decide), rfl⟩

/-- A step that plays a move by PLAY_AT, one that plays it by a sample, one that starts a game. -/
theorem witness_gameTieIns : TriesAMove (offered 0x700101) ∧ TriesAMove (sampling start 0x010 false 0) ∧
    StartsAGame (offered 0x600000) :=
  ⟨.inl ⟨1, 1, by decide⟩, .inr ⟨rfl, rfl, rfl⟩, .inr (by decide)⟩

theorem witness_turnIndicators : start.outcome = .inProgress := rfl

end Sys2Proof.Tests
end

section
/-! The output ports: the turn indicators (R24). -/

namespace Sys2Proof.Machine

theorem State.turnP1_eq_true_iff (s : State) :
    s.turnP1 = true ↔ s.outcome = .inProgress ∧ s.nextPlayer = .player1 := by
  simp [State.turnP1]

theorem State.turnP2_eq_true_iff (s : State) :
    s.turnP2 = true ↔ s.outcome = .inProgress ∧ s.nextPlayer = .player2 := by
  simp [State.turnP2]

/-- The two indicators would name two different players as the next one. -/
theorem State.not_turnP1_and_turnP2 (s : State) : ¬ (s.turnP1 = true ∧ s.turnP2 = true) := by
  rw [s.turnP1_eq_true_iff, s.turnP2_eq_true_iff]
  rintro ⟨⟨-, h1⟩, -, h2⟩
  exact Player.noConfusion (h1.symm.trans h2)

theorem State.turnP1_or_turnP2 {s : State} (h : s.outcome = .inProgress) : s.turnP1 = true ∨ s.turnP2 = true := by
  rw [s.turnP1_eq_true_iff, s.turnP2_eq_true_iff]
  cases hn : s.nextPlayer with
  | player1 => exact .inl ⟨h, rfl⟩
  | player2 => exact .inr ⟨h, rfl⟩

/-- Settles O59: the two equivalences of R24, and what follows from NEXT having exactly one of two values. -/
theorem turnIndicators : Obligations.TurnIndicators := fun s =>
  ⟨s.turnP1_eq_true_iff, s.turnP2_eq_true_iff, s.not_turnP1_and_turnP2, State.turnP1_or_turnP2⟩

end Sys2Proof.Machine
end

section
/-! The decoding law of command words (R84). The idea: `CmdWord.assembled` zeroes the fields that a word's opcode
leaves unused (R78); decoding does not see the difference, and encoding the decoded instruction gives that word. -/

namespace Sys2Proof

/-! ## A word is its four fields -/

theorem cmdWord_fields (w : CmdWord) :
    cmdWord (w.extractLsb' 20 4) (w.extractLsb' 16 4) (w.extractLsb' 8 8) (w.extractLsb' 0 8) = w := by
  have hop : w.extractLsb' 20 4 ++ w.extractLsb' 16 4 = w.extractLsb' 16 8 :=
    BitVec.extractLsb'_append_extractLsb'_eq_extractLsb' rfl
  have ha : w.extractLsb' 16 8 ++ w.extractLsb' 8 8 = w.extractLsb' 8 16 :=
    BitVec.extractLsb'_append_extractLsb'_eq_extractLsb' rfl
  have hb : w.extractLsb' 8 16 ++ w.extractLsb' 0 8 = w.extractLsb' 0 24 :=
    BitVec.extractLsb'_append_extractLsb'_eq_extractLsb' rfl
  calc w.extractLsb' 20 4 ++ w.extractLsb' 16 4 ++ w.extractLsb' 8 8 ++ w.extractLsb' 0 8
      = w.extractLsb' 0 24 := by rw [hop, ha, hb]
    _ = w := BitVec.extractLsb'_eq_self

theorem cmdWord_and (op op' f f' : BitVec 4) (a a' b b' : Byte) :
    cmdWord op f a b &&& cmdWord op' f' a' b' = cmdWord (op &&& op') (f &&& f') (a &&& a') (b &&& b') := by
  apply BitVec.eq_of_getLsbD_eq
  intro i hi
  simp only [BitVec.getLsbD_and, cmdWord_getLsbD]
  split_ifs <;> rfl

theorem opcode_cases : ∀ op : BitVec 4, op = 0x0 ∨ op = 0x1 ∨ op = 0x2 ∨ op = 0x3 ∨ op = 0x4 ∨ op = 0x5 ∨
    op = 0x6 ∨ op = 0x7 ∨ op = 0x8 ∨ op = 0x9 ∨ op = 0xA ∨ op = 0xB ∨ op = 0xC ∨ op = 0xD ∨ op = 0xE ∨
    op = 0xF := by decide

/-! ## The rows of the decoder (R75) -/

theorem decodeCmd_cmdWord (f : BitVec 4) (a b : Byte) :
    decodeCmd (cmdWord 0x0 f a b) = .nop ∧
    decodeCmd (cmdWord 0x1 f a b) = .writeReg a b ∧
    decodeCmd (cmdWord 0x2 f a b) = .devInit b ∧
    decodeCmd (cmdWord 0x3 f a b) = .setPixel a b (f.getLsbD 0) ∧
    decodeCmd (cmdWord 0x4 f a b) = .setRow a b ∧
    decodeCmd (cmdWord 0x5 f a b) = .clear ∧
    decodeCmd (cmdWord 0x6 f a b) = .gameInit ∧
    decodeCmd (cmdWord 0x7 f a b) = .playAt a b ∧
    decodeCmd (cmdWord 0x8 f a b) = .evaluate ∧
    decodeCmd (cmdWord 0x9 f a b) = .awaitMove ∧
    decodeCmd (cmdWord 0xA f a b) = .reservedA ∧
    decodeCmd (cmdWord 0xB f a b) = .reservedB ∧
    decodeCmd (cmdWord 0xC f a b) = .reservedC ∧
    decodeCmd (cmdWord 0xD f a b) = .reservedD ∧
    decodeCmd (cmdWord 0xE f a b) = .reservedE ∧
    decodeCmd (cmdWord 0xF f a b) = .reservedF := by
  simp [decodeCmd, cmdWord_op, cmdWord_a, cmdWord_b, cmdWord_on]

/-! ## The word an assembler emits (R78) -/

/-- The word with the fields its opcode leaves unused set to zero (R78). -/
def CmdWord.assembled (w : CmdWord) : CmdWord := w &&& ~~~(unusedMask w.op)

theorem CmdWord.assembled_of_canonical {w : CmdWord} (h : w.canonical = true) : w.assembled = w := by
  have hmask : w &&& unusedMask w.op = 0#24 := beq_iff_eq.mp h
  apply BitVec.eq_of_getLsbD_eq
  intro i hi
  have hbit : (w.getLsbD i && (unusedMask w.op).getLsbD i) = false := by
    rw [← BitVec.getLsbD_and, hmask, BitVec.getLsbD_zero]
  rw [CmdWord.assembled, BitVec.getLsbD_and, BitVec.getLsbD_not]
  cases hm : (unusedMask w.op).getLsbD i with
  | false => simp [hi]
  | true =>
    have hw : w.getLsbD i = false := by simpa [hm] using hbit
    simp [hw]

/-- The assembled word keeps, field by field, what the complement of the mask keeps. -/
theorem assembled_cmdWord_of_mask {op mf : BitVec 4} {ma mb : Byte}
    (h : ~~~(unusedMask op) = cmdWord (BitVec.allOnes 4) mf ma mb) (f : BitVec 4) (a b : Byte) :
    (cmdWord op f a b).assembled = cmdWord op (f &&& mf) (a &&& ma) (b &&& mb) := by
  rw [CmdWord.assembled, cmdWord_op, h, cmdWord_and, BitVec.and_allOnes]

section
/-! One lemma for each value of the mask. -/

variable {op : BitVec 4} (f : BitVec 4) (a b : Byte)

theorem assembled_without_operands (h : unusedMask op = 0x0FFFFF#24) :
    (cmdWord op f a b).assembled = cmdWord op 0 0 0 := by
  rw [assembled_cmdWord_of_mask (mf := 0#4) (ma := 0#8) (mb := 0#8) (by rw [h]; decide),
    BitVec.and_zero, BitVec.and_zero, BitVec.and_zero]
  rfl

theorem assembled_with_operands (h : unusedMask op = 0x0F0000#24) :
    (cmdWord op f a b).assembled = cmdWord op 0 a b := by
  rw [assembled_cmdWord_of_mask (mf := 0#4) (ma := .allOnes 8) (mb := .allOnes 8) (by rw [h]; decide),
    BitVec.and_zero, BitVec.and_allOnes, BitVec.and_allOnes]
  rfl

theorem assembled_with_operand_b (h : unusedMask op = 0x0FFF00#24) :
    (cmdWord op f a b).assembled = cmdWord op 0 0 b := by
  rw [assembled_cmdWord_of_mask (mf := 0#4) (ma := 0#8) (mb := .allOnes 8) (by rw [h]; decide),
    BitVec.and_zero, BitVec.and_zero, BitVec.and_allOnes]
  rfl

theorem assembled_with_on (h : unusedMask op = 0x0E0000#24) :
    (cmdWord op f a b).assembled = cmdWord op (BitVec.ofNat 4 (f.getLsbD 0).toNat) a b := by
  have hf : ∀ f : BitVec 4, f &&& 1 = BitVec.ofNat 4 (f.getLsbD 0).toNat := by decide
  rw [assembled_cmdWord_of_mask (mf := 1) (ma := .allOnes 8) (mb := .allOnes 8) (by rw [h]; decide), hf,
    BitVec.and_allOnes, BitVec.and_allOnes]

end

/-- What the assembler emits for each opcode: the operands of its row and zeros (R75, R78). -/
theorem assembled_cmdWord (f : BitVec 4) (a b : Byte) :
    (cmdWord 0x0 f a b).assembled = cmdWord 0x0 0 0 0 ∧
    (cmdWord 0x1 f a b).assembled = cmdWord 0x1 0 a b ∧
    (cmdWord 0x2 f a b).assembled = cmdWord 0x2 0 0 b ∧
    (cmdWord 0x3 f a b).assembled = cmdWord 0x3 (BitVec.ofNat 4 (f.getLsbD 0).toNat) a b ∧
    (cmdWord 0x4 f a b).assembled = cmdWord 0x4 0 a b ∧
    (cmdWord 0x5 f a b).assembled = cmdWord 0x5 0 0 0 ∧
    (cmdWord 0x6 f a b).assembled = cmdWord 0x6 0 0 0 ∧
    (cmdWord 0x7 f a b).assembled = cmdWord 0x7 0 a b ∧
    (cmdWord 0x8 f a b).assembled = cmdWord 0x8 0 0 0 ∧
    (cmdWord 0x9 f a b).assembled = cmdWord 0x9 0 0 0 ∧
    (cmdWord 0xA f a b).assembled = cmdWord 0xA 0 0 0 ∧
    (cmdWord 0xB f a b).assembled = cmdWord 0xB 0 0 0 ∧
    (cmdWord 0xC f a b).assembled = cmdWord 0xC 0 0 0 ∧
    (cmdWord 0xD f a b).assembled = cmdWord 0xD 0 0 0 ∧
    (cmdWord 0xE f a b).assembled = cmdWord 0xE 0 0 0 ∧
    (cmdWord 0xF f a b).assembled = cmdWord 0xF 0 0 0 :=
  ⟨assembled_without_operands f a b rfl, assembled_with_operands f a b rfl, assembled_with_operand_b f a b rfl,
    assembled_with_on f a b rfl, assembled_with_operands f a b rfl, assembled_without_operands f a b rfl,
    assembled_without_operands f a b rfl, assembled_with_operands f a b rfl, assembled_without_operands f a b rfl,
    assembled_without_operands f a b rfl, assembled_without_operands f a b rfl, assembled_without_operands f a b rfl,
    assembled_without_operands f a b rfl, assembled_without_operands f a b rfl, assembled_without_operands f a b rfl,
    assembled_without_operands f a b rfl⟩

/-! ## Decoding and encoding -/

/-- The field `f` that the encoder writes for SET_PIXEL carries `on` in its bit 0 (R74, R84). -/
theorem getLsbD_zero_ofNat_toNat : ∀ on : Bool, (BitVec.ofNat 4 on.toNat).getLsbD 0 = on := by decide

/-- Row by row of R75: the assembled word decodes as the word does, and is what the encoder gives back. -/
theorem assembled_round_trip (op f : BitVec 4) (a b : Byte) :
    decodeCmd (cmdWord op f a b).assembled = decodeCmd (cmdWord op f a b) ∧
      encode (decodeCmd (cmdWord op f a b)) = .cmd (cmdWord op f a b).assembled := by
  rcases opcode_cases op with rfl | rfl | rfl | rfl | rfl | rfl | rfl | rfl |
      rfl | rfl | rfl | rfl | rfl | rfl | rfl | rfl <;>
    simp only [assembled_cmdWord, decodeCmd_cmdWord, encode, getLsbD_zero_ofNat_toNat, and_self]

/-- Decoding ignores the fields that the opcode leaves unused (R78, R84). -/
theorem decodeCmd_assembled (w : CmdWord) : decodeCmd w.assembled = decodeCmd w := by
  rw [← cmdWord_fields w]
  exact (assembled_round_trip _ _ _ _).1

/-- Encoding the decoded instruction gives the word with its unused fields set to zero (R78, R84). -/
theorem encode_decodeCmd (w : CmdWord) : encode (decodeCmd w) = .cmd w.assembled := by
  rw [← cmdWord_fields w]
  exact (assembled_round_trip _ _ _ _).2

theorem decodeCmd_eq_of_assembled_eq {w w' : CmdWord} (h : w.assembled = w'.assembled) :
    decodeCmd w = decodeCmd w' := by
  rw [← decodeCmd_assembled w, h, decodeCmd_assembled]

/-- Settles O2: the rows of the decoder, and the word with its unused fields set to zero, which decodes alike and which
the encoder gives back. -/
theorem decodingLawOfCommandWords : Obligations.DecodingLawOfCommandWords := by
  refine ⟨decodeCmd_cmdWord, fun w => ⟨decodeCmd w, rfl⟩, fun w => (cmdWord_fields w).symm, ?canonical, ?unused⟩
  case canonical =>
    intro w hw
    rw [encode_decodeCmd, CmdWord.assembled_of_canonical hw]
  case unused =>
    intro w w' hop hused
    refine decodeCmd_eq_of_assembled_eq ?_
    calc w.assembled = w' &&& ~~~(unusedMask (w.extractLsb' 20 4)) := hused
      _ = w'.assembled := by rw [hop]; rfl

end Sys2Proof
end

section
/-! The serial frame (R100): which event stands at each of its 51 places, and the levels it leaves on the three lines
whatever they were before. The places follow from one fact: events of a list of bits stand in threes, one three for each
bit. The levels follow from the frame performed from CS high, since the first event of any frame raises CS. -/

namespace Sys2Proof.Machine

/-! ## The places of the events -/

/-- The events of a sequence of bits stand in threes, in the order of the bits. -/
theorem getElem?_flatMap_bitEvents (v : Byte) (is : List Nat) (n k : Nat) (hk : k < 3) :
    (is.flatMap fun i => bitEvents (v.getLsbD i))[3 * n + k]? =
      is[n]?.bind fun i => (bitEvents (v.getLsbD i))[k]? := by
  have hlen (b : Bool) : (bitEvents b).length = 3 := rfl
  induction is generalizing n with
  | nil => rfl
  | cons i is ih =>
    rw [List.flatMap_cons]
    cases n with
    | zero => rw [List.getElem?_append_left (by rw [hlen]; omega), Nat.mul_zero, Nat.zero_add]; rfl
    | succ n =>
      rw [List.getElem?_append_right (by rw [hlen]; omega), hlen, List.getElem?_cons_succ, ← ih n]
      congr 1
      omega

/-- Bit `7 - n` is the `n`th that a byte sends: bit 7 first (R44). -/
theorem getElem?_byteEvents (v : Byte) {n k : Nat} (hn : n < 8) (hk : k < 3) :
    (byteEvents v)[3 * n + k]? = (bitEvents (v.getLsbD (7 - n)))[k]? := by
  have hbit : [7, 6, 5, 4, 3, 2, 1, 0][n]? = some (7 - n) := by
    revert n
    decide
  rw [byteEvents, getElem?_flatMap_bitEvents v _ n k hk, hbit, Option.bind_some]

theorem byteEvents_length (v : Byte) : (byteEvents v).length = 24 := rfl

theorem frame_eq_cons (a v : Byte) :
    frame a v = ⟨.cs, true⟩ :: (byteEvents a ++ (byteEvents v ++ [⟨.cs, false⟩, ⟨.cs, true⟩])) := rfl

/-- The address byte's events come directly after the rise of CS. -/
theorem getElem?_frame_address (a v : Byte) {j : Nat} (hj : j < 24) :
    (frame a v)[j + 1]? = (byteEvents a)[j]? := by
  rw [frame_eq_cons, List.getElem?_cons_succ,
    List.getElem?_append_left (by rwa [byteEvents_length])]

/-- The value byte's events come directly after the address byte's. -/
theorem getElem?_frame_value (a v : Byte) {j : Nat} (hj : j < 24) :
    (frame a v)[j + 25]? = (byteEvents v)[j]? := by
  rw [frame_eq_cons, List.getElem?_cons_succ,
    List.getElem?_append_right (by rw [byteEvents_length]; omega), byteEvents_length, Nat.add_sub_cancel,
    List.getElem?_append_left (by rwa [byteEvents_length])]

/-- The three events of bit `7 - n` of the address. -/
theorem getElem?_frame_address_bit (a v : Byte) {n k : Nat} (hn : n < 8) (hk : k < 3) :
    (frame a v)[3 * n + k + 1]? = (bitEvents (a.getLsbD (7 - n)))[k]? := by
  rw [getElem?_frame_address a v (by omega), getElem?_byteEvents a hn hk]

/-- The three events of bit `7 - n` of the value. -/
theorem getElem?_frame_value_bit (a v : Byte) {n k : Nat} (hn : n < 8) (hk : k < 3) :
    (frame a v)[3 * n + k + 25]? = (bitEvents (v.getLsbD (7 - n)))[k]? := by
  rw [getElem?_frame_value a v (by omega), getElem?_byteEvents v hn hk]

/-! ## The levels afterwards -/

theorem State.perform_cs_high_cs (s : State) : (s.perform ⟨.cs, true⟩).cs = true := by
  rw [State.perform_eq]
  rfl

/-- Raising CS when it is high does nothing: there is no edge for the receiver to see (R47). -/
theorem State.perform_cs_high_of_high {s : State} (h : s.cs = true) : s.perform ⟨.cs, true⟩ = s := by
  obtain ⟨_⟩ := s
  subst h
  rfl

/-- A frame performed from any state is the frame performed from CS high, once its first event has raised CS. -/
theorem State.performAll_frame_after_raise (s : State) (a v : Byte) :
    s.performAll (frame a v) = (s.perform ⟨.cs, true⟩).performAll (frame a v) := by
  have hraise := State.perform_cs_high_of_high s.perform_cs_high_cs
  rw [frame_eq_cons, State.performAll_cons, State.performAll_cons, hraise]

/-- The levels a frame leaves: CS and CLOCK high, DATA at the last bit sent (R100). -/
theorem State.performAll_frame_levels (s : State) (a v : Byte) :
    (s.performAll (frame a v)).cs = true ∧ (s.performAll (frame a v)).clock = true ∧
      (s.performAll (frame a v)).data = v.getLsbD 0 := by
  have hcs := s.perform_cs_high_cs
  rw [State.performAll_frame_after_raise, State.performAll_frame _ a v hcs]
  exact ⟨hcs, rfl, rfl⟩

/-- Settles O5: the place of every event of the frame, and the levels afterwards. -/
theorem frameIsTheFiftyOneEvents : Obligations.FrameIsTheFiftyOneEvents := by
  refine fun a v => ⟨frame_length a v, rfl, fun n hn => ?bits, rfl, rfl, fun s => s.performAll_frame_levels a v⟩
  case bits =>
    have address (k : Nat) (hk : k < 3) := getElem?_frame_address_bit a v hn hk
    have value (k : Nat) (hk : k < 3) := getElem?_frame_value_bit a v hn hk
    exact ⟨address 0 (by decide), address 1 (by decide), address 2 (by decide),
      value 0 (by decide), value 1 (by decide), value 2 (by decide)⟩

end Sys2Proof.Machine
end

section
/-! The display commands (R120 to R125). Operands out of range stop both commands before they touch anything. In range,
SET_ROW writes the row its operand names and no other; what is pending before it is performed moves no row and no part
of the game. So the eight commands of SET_FRAME, one for each row, leave each row with its own value. -/

namespace Sys2Proof.Machine

/-! ## Out of range (R124) -/

theorem execSetPixel_of_out_of_range {row col : Byte} (h : 7 < row.toNat ∨ 7 < col.toNat) (on : Bool) (s : State) :
    execSetPixel row col on s = .next s := by
  unfold execSetPixel
  rcases h with hrow | hcol
  · rw [displayIndex?_of_gt hrow]; rfl
  · rw [displayIndex?_of_gt hcol]
    cases displayIndex? row <;> rfl

theorem State.setRowAt_of_out_of_range {row : Byte} (h : 7 < row.toNat) (value : Byte) (s : State) :
    s.setRowAt row value = s := by
  rw [State.setRowAt, displayIndex?_of_gt h]

/-- Settles O16: neither command gets past the range check of its operands. -/
theorem outOfRangeDisplayCommandsDoNothing : Obligations.OutOfRangeDisplayCommandsDoNothing :=
  ⟨fun _ _ on s h => execSetPixel_of_out_of_range h on s,
    fun _ value s h => congrArg Host.Outcome.next (State.setRowAt_of_out_of_range h value s)⟩

/-! ## What SET_ROW does to the rows and to the game (R121) -/

theorem State.setRowAt_of_in_range {row : Byte} {r : Fin 8} (h : row.toNat = r.val) (value : Byte) (s : State) :
    s.setRowAt row value = s.sendRow r value := by
  rw [State.setRowAt, displayIndex?_of_lt h]

/-- Every row after a SET_ROW, in range or out of it: no row has the number of an operand out of range. -/
theorem State.setRowAt_row (s : State) (row value : Byte) (r : Fin 8) :
    (s.setRowAt row value).row r = if row.toNat = r.val then value else s.row r := by
  by_cases hlt : row.toNat < 8
  · rw [State.setRowAt_of_in_range (r := ⟨row.toNat, hlt⟩) rfl, State.sendRow_row]
    simp only [Fin.ext_iff, eq_comm]
  · have hne : row.toNat ≠ r.val := by omega
    rw [State.setRowAt_of_out_of_range (by omega), if_neg hne]

theorem State.thenSetRow_row (s : State) (row value : Byte) (r : Fin 8) :
    (s.thenSetRow row value).row r = if row.toNat = r.val then value else s.row r := by
  rw [State.thenSetRow, State.setRowAt_row, State.settle_row]

theorem SameGame.trans {s t u : State} (hst : SameGame s t) (htu : SameGame t u) : SameGame s u := by
  obtain ⟨hcells, hmoves, hnext, houtcome⟩ := hst
  obtain ⟨hcells', hmoves', hnext', houtcome'⟩ := htu
  exact ⟨hcells'.trans hcells, hmoves'.trans hmoves, hnext'.trans hnext, houtcome'.trans houtcome⟩

theorem State.setRowAt_sameGame (s : State) (row value : Byte) : SameGame s (s.setRowAt row value) := by
  obtain ⟨es, h⟩ := State.setRowAt_eq s row value
  rw [h]
  exact ⟨rfl, rfl, rfl, rfl⟩

theorem State.settle_sameGame (s : State) : SameGame s s.settle := by
  rw [State.settle_eq]
  exact ⟨rfl, rfl, rfl, rfl⟩

theorem SameGame.thenSetRow {s t : State} (h : SameGame s t) (row value : Byte) :
    SameGame s (t.thenSetRow row value) :=
  (h.trans t.settle_sameGame).trans (t.settle.setRowAt_sameGame row value)

/-! ## SET_FRAME (R123, R125) -/

/-- Of the eight commands exactly one names a given row, and none touches the game. -/
theorem exec_setFrame_rows_and_game (v0 v1 v2 v3 v4 v5 v6 v7 : Byte) (s : State) :
    ∃ t, exec (.setFrame v0 v1 v2 v3 v4 v5 v6 v7) s = .next t ∧
      (∀ r : Fin 8, t.row r = #v[v0, v1, v2, v3, v4, v5, v6, v7][r]) ∧ SameGame s t := by
  have hgame : SameGame s _ :=
    (((((((s.setRowAt_sameGame 0 v0).thenSetRow 1 v1).thenSetRow 2 v2).thenSetRow 3 v3).thenSetRow 4 v4).thenSetRow
      5 v5).thenSetRow 6 v6).thenSetRow 7 v7
  refine ⟨_, rfl, fun r => ?rows, hgame⟩
  case rows =>
    simp only [State.thenSetRow_row, State.setRowAt_row]
    fin_cases r <;> rfl

/-- The port is the rows of the cache side by side, row 0 lowest (R26). -/
theorem State.stRows_of_rows {s : State} {v0 v1 v2 v3 v4 v5 v6 v7 : Byte}
    (h : s.rows = #v[v0, v1, v2, v3, v4, v5, v6, v7]) :
    s.stRows = v7 ++ v6 ++ v5 ++ v4 ++ v3 ++ v2 ++ v1 ++ v0 := by
  unfold State.stRows State.row
  rw [h]
  rfl

/-- Settles O19: the rows one by one make up the cache, and the port shows the cache. -/
theorem setFrameRoundTrip : Obligations.SetFrameRoundTrip := by
  intro v0 v1 v2 v3 v4 v5 v6 v7 s
  obtain ⟨t, hexec, hrow, hgame⟩ := exec_setFrame_rows_and_game v0 v1 v2 v3 v4 v5 v6 v7 s
  have hrows : t.rows = #v[v0, v1, v2, v3, v4, v5, v6, v7] := Vector.ext fun i hi => hrow ⟨i, hi⟩
  exact ⟨t, hexec, hrows, State.stRows_of_rows hrows, hgame⟩

end Sys2Proof.Machine
end

section
/-! The game commands (R140 to R152). A PLAY_AT either passes the three guards and is `State.acceptMove`, or answers the
state it was given; `execPlayAt_cases` says so, and what an accepted move leaves is read off field by field. EVALUATE is
settled by the scan of the lines: the first match in scan order is the winner. -/

namespace Sys2Proof.Machine

/-! ## A new game (R140) -/

theorem State.newGame_isNewGame (s : State) : IsNewGame s.newGame := by
  refine ⟨fun k => ?cell, rfl, rfl, rfl⟩
  case cell => simp [State.cell]

/-- Settles O22: the state answered is `State.newGame`. -/
theorem gameInitStartsANewGame : Obligations.GameInitStartsANewGame := fun s =>
  ⟨s.newGame, rfl, s.newGame_isNewGame, rfl⟩

/-! ## An ignored move (R150) -/

/-- Settles O23: PLAY_AT answers another state only when its guards pass, and each condition contradicts one of them. -/
theorem ignoredPlayAtChangesNothing : Obligations.IgnoredPlayAtChangesNothing := by
  intro row col s hignored
  obtain ⟨t, hexec⟩ := execPlayAt_next row col s
  obtain rfl | ⟨i, j, hi, hj, hopen, hfree, -⟩ := execPlayAt_cases hexec
  · exact hexec
  · exfalso
    obtain hrow | hcol | hover | ⟨i', j', hi', hj', htaken⟩ := hignored
    · omega
    · omega
    · exact hover hopen
    · obtain rfl : i' = i := Fin.ext (hi'.symm.trans hi)
      obtain rfl : j' = j := Fin.ext (hj'.symm.trans hj)
      exact htaken hfree

/-! ## What an accepted move leaves in the game (R142) -/

section
variable (s : State) (i j : Fin 3)

@[simp] theorem State.acceptMove_cells :
    (s.acceptMove i j).cells = s.cells.set (boardIndex i j) s.nextPlayer.mark := by
  obtain ⟨_, h⟩ := s.acceptMove_eq i j
  exact congrArg State.cells h

@[simp] theorem State.acceptMove_moves : (s.acceptMove i j).moves = s.moves + 1#4 := by
  obtain ⟨_, h⟩ := s.acceptMove_eq i j
  exact congrArg State.moves h

@[simp] theorem State.acceptMove_nextPlayer : (s.acceptMove i j).nextPlayer = s.nextPlayer.other := by
  obtain ⟨_, h⟩ := s.acceptMove_eq i j
  exact congrArg State.nextPlayer h

/-- OUTCOME is evaluated on the board and the count that the move leaves. -/
theorem State.acceptMove_outcome : (s.acceptMove i j).outcome =
    evaluatedOutcome (s.acceptMove i j).cells (s.acceptMove i j).moves s.outcome := by
  obtain ⟨_, h⟩ := s.acceptMove_eq i j
  rw [State.acceptMove_cells, State.acceptMove_moves]
  exact congrArg State.outcome h

theorem State.acceptMove_cell (k : Fin 9) :
    (s.acceptMove i j).cell k = if k = boardIndex i j then s.nextPlayer.mark else s.cell k := by
  rw [← State.cell_putCell, State.cell, State.acceptMove_cells]
  rfl

end

/-- An accepted move whose guards have passed is one move (R149). -/
theorem State.acceptMove_oneMove {s : State} {i j : Fin 3} (hopen : s.outcome = .inProgress)
    (hfree : s.cell (boardIndex i j) = .empty) : OneMove s (s.acceptMove i j) := by
  refine ⟨hopen, s.acceptMove_moves i j, s.acceptMove_nextPlayer i j, boardIndex i j, hfree, ?placed, fun k hk => ?kept⟩
  case placed => rw [State.acceptMove_cell, if_pos rfl]
  case kept => rw [State.acceptMove_cell, if_neg hk]

/-- A PLAY_AT that changes the board has accepted the move (R8). -/
theorem execPlayAt_of_changed {row col : Byte} {s t : State} (h : execPlayAt row col s = .next t)
    (hchanged : t.cells ≠ s.cells) :
    ∃ i j : Fin 3, s.outcome = .inProgress ∧ s.cell (boardIndex i j) = .empty ∧ t = s.acceptMove i j := by
  obtain rfl | ⟨i, j, -, -, hopen, hfree, ht⟩ := execPlayAt_cases h
  · exact absurd rfl hchanged
  · exact ⟨i, j, hopen, hfree, ht⟩

/-- Settles O26: a PLAY_AT that changes the board is one move, which counts one and flips the turn. -/
theorem acceptedMoveCountsAndAlternates : Obligations.AcceptedMoveCountsAndAlternates := by
  intro row col s t hexec hchanged
  obtain ⟨i, j, hopen, hfree, rfl⟩ := execPlayAt_of_changed hexec hchanged
  exact ⟨s.acceptMove_moves i j, s.acceptMove_nextPlayer i j, State.acceptMove_oneMove hopen hfree⟩

/-! ## The scan of the lines (R144, R145) -/

/-- A line matches only when its three cells are equal and not Empty. -/
theorem lineOwner?_eq_none_of_not_match {cells : Vector Cell 9} {l : Fin 9 × Fin 9 × Fin 9}
    (h : ¬ (cells[l.1] ≠ .empty ∧ cells[l.1] = cells[l.2.1] ∧ cells[l.2.1] = cells[l.2.2])) :
    lineOwner? cells l = none := by
  cases howner : lineOwner? cells l with
  | none => rfl
  | some p =>
    obtain ⟨h1, h2, h3⟩ := (lineOwner?_eq_some cells l p).1 howner
    exact absurd ⟨h1 ▸ p.mark_ne_empty, h1.trans h2.symm, h2.trans h3.symm⟩ h

/-- The owner of a line that no match comes before in scan order is the winner: "stopping at the first match". -/
theorem winner?_of_first_match {cells : Vector Cell 9} {p : Player} {n : Nat} {l : Fin 9 × Fin 9 × Fin 9}
    (hl : boardLines[n]? = some l) (howner : lineOwner? cells l = some p)
    (hbefore : ∀ (m : Nat) (l' : Fin 9 × Fin 9 × Fin 9), m < n → boardLines[m]? = some l' →
      lineOwner? cells l' = none) : winner? cells = some p := by
  obtain ⟨hn, rfl⟩ := List.getElem?_eq_some_iff.1 hl
  have hsplit : boardLines = boardLines.take n ++ boardLines[n] :: boardLines.drop (n + 1) := by
    rw [List.getElem_cons_drop, List.take_append_drop]
  refine List.findSome?_eq_some_iff.2 ⟨_, _, _, hsplit, howner, fun l' hl' => ?_⟩
  obtain ⟨m, hm, rfl⟩ := List.mem_take_iff_getElem.1 hl'
  exact hbefore m _ (by omega) (List.getElem?_eq_getElem _)

theorem winner?_eq_none_of_no_line {cells : Vector Cell 9} (h1 : ¬ HasLine cells .player1)
    (h2 : ¬ HasLine cells .player2) : winner? cells = none :=
  (winner?_eq_none cells).2 fun
    | .player1 => h1
    | .player2 => h2

/-- Below five moves the evaluate operation writes nothing (R145, R151). -/
theorem State.evaluate_of_few_moves {s : State} (h : s.moves < 5#4) : s.evaluate = s := by
  rw [State.evaluate, evaluatedOutcome_early h]

/-- Settles O27: the table of lines, and the value of `evaluatedOutcome` in each case of the scan. -/
theorem evaluateScansTheLinesInOrder : Obligations.EvaluateScansTheLinesInOrder := by
  refine ⟨rfl, fun s => ⟨s.evaluate, rfl, rfl, State.evaluate_of_few_moves, ?win, ?noLine⟩⟩
  case win =>
    intro p n l hmoves hl h1 h2 h3 hbefore
    have howner : lineOwner? s.cells l = some p := (lineOwner?_eq_some s.cells l p).2 ⟨h1, h2, h3⟩
    exact evaluatedOutcome_win (BitVec.not_lt.2 hmoves)
      (winner?_of_first_match hl howner fun m l' hm hl' => lineOwner?_eq_none_of_not_match (hbefore m l' hm hl'))
  case noLine =>
    intro hmoves h1 h2
    exact evaluatedOutcome_open (BitVec.not_lt.2 hmoves) (winner?_eq_none_of_no_line h1 h2)

/-! ## The outcome after a move (R151, R152) -/

/-- Settles O29: below five moves `evaluatedOutcome` is the old outcome, for EVALUATE as for an accepted move. -/
theorem noWinBelowFiveMoves : Obligations.NoWinBelowFiveMoves := by
  refine fun s hfew => ⟨congrArg Host.Outcome.next (State.evaluate_of_few_moves hfew), ?move⟩
  case move =>
    intro hopen row col t hexec hfew'
    obtain rfl | ⟨i, j, -, -, -, -, rfl⟩ := execPlayAt_cases hexec
    · exact hopen
    · rw [State.acceptMove_outcome, evaluatedOutcome_early hfew', hopen]

/-- Settles O30: the ninth move brings MOVES to 9, where a board without a line is evaluated as a draw. -/
theorem fullBoardWithoutLineIsADraw : Obligations.FullBoardWithoutLineIsADraw := by
  intro row col s t hexec hchanged hmoves h1 h2
  obtain ⟨i, j, -, -, rfl⟩ := execPlayAt_of_changed hexec hchanged
  have hnine : (s.acceptMove i j).moves = 9#4 := by
    rw [State.acceptMove_moves, hmoves]
    rfl
  rw [State.acceptMove_outcome, evaluatedOutcome_open (by rw [hnine]; decide) (winner?_eq_none_of_no_line h1 h2),
    if_pos hnine]

end Sys2Proof.Machine
end

section
/-! The position bus and the wait (R170 to R176). The four cases of the position decode are four lemmas, one for each
branch. A position's coordinates are the quotient and the remainder of `p - 1` by 3, which a byte holds without loss. A
step of a waiting block is a sample, and a sample can do no more to the game than the one PLAY_AT it plays. -/

namespace Sys2Proof.Machine

/-! ## The line that is asserted -/

theorem oneHotLine?_one_line {k : Nat} (hk : k < 9) : oneHotLine? (1#9 <<< k) = some k := by
  revert k
  decide

theorem oneHotLine?_eq_none {bus : BitVec 9} (h : ∀ k : Nat, k < 9 → bus ≠ 1#9 <<< k) : oneHotLine? bus = none := by
  refine List.find?_eq_none.2 fun k hk => ?_
  have hk9 : k < 9 := by
    revert k
    decide
  rw [beq_iff_eq]
  exact h k hk9

theorem one_line_ne_zero {k : Nat} (hk : k < 9) : 1#9 <<< k ≠ 0#9 := by
  revert k
  decide

/-! ## The four cases of the position decode (R170) -/

theorem decodePosition_override (bus : BitVec 9) (d : BitVec 4) : decodePosition bus true d = 9#4 := rfl

theorem decodePosition_no_line (d : BitVec 4) : decodePosition 0#9 false d = 0#4 := rfl

theorem decodePosition_one_line {k : Nat} (hk : k < 9) (d : BitVec 4) :
    decodePosition (1#9 <<< k) false d = BitVec.ofNat 4 (k + 1) := by
  simp [decodePosition, one_line_ne_zero hk, oneHotLine?_one_line hk]

theorem decodePosition_many_lines {bus : BitVec 9} (hany : bus ≠ 0#9) (hmany : ∀ k : Nat, k < 9 → bus ≠ 1#9 <<< k)
    (d : BitVec 4) : decodePosition bus false d = d := by
  simp [decodePosition, hany, oneHotLine?_eq_none hmany]

/-! ## The coordinates of a position (R172) -/

theorem posToRowCol_row (p : BitVec 4) : (posToRowCol p).1.toNat = (p.toNat - 1) / 3 := by
  have hp := p.isLt
  exact Nat.mod_eq_of_lt (by omega)

theorem posToRowCol_col (p : BitVec 4) : (posToRowCol p).2.toNat = (p.toNat - 1) % 3 :=
  Nat.mod_eq_of_lt (by omega)

/-- Line `k` selects board index `k` (R175). -/
theorem posToRowCol_of_line {k : Nat} (hk : k < 9) :
    posToRowCol (BitVec.ofNat 4 (k + 1)) = (BitVec.ofNat 8 (k / 3), BitVec.ofNat 8 (k % 3)) := by
  have hp : (BitVec.ofNat 4 (k + 1)).toNat = k + 1 := Nat.mod_eq_of_lt (by omega)
  rw [posToRowCol, hp, Nat.add_sub_cancel]

/-- Settles O34: one lemma for each case of the decode, and the coordinates of the position of a line. -/
theorem positionDecodeCases : Obligations.PositionDecodeCases :=
  ⟨decodePosition_override, decodePosition_no_line, fun _ d hk => decodePosition_one_line hk d,
    fun _ d hany hmany => decodePosition_many_lines hany hmany d, fun _ hk => posToRowCol_of_line hk⟩

/-- Settles O35: row and column are quotient and remainder of `p - 1`, and `p` is at most 15. -/
theorem positionToCoordinates : Obligations.PositionToCoordinates := by
  intro p _
  have hp := p.isLt
  rw [posToRowCol_row, posToRowCol_col]
  refine ⟨rfl, rfl, fun hcell => ⟨Nat.div_add_mod _ 3, ?_, ?_⟩, fun hout => ?_⟩ <;> omega

/-! ## What a wait can do to the game (R176) -/

/-- A step of a waiting block with nothing pending is a sample (R194). -/
theorem step_of_waiting {s : State} (hpend : s.pend = []) (hwait : s.waiting = true)
    (hrst : s.takeInput.1.rst = false) : step s = takeSample s.takeInput.1 s.takeInput.2 := by
  rw [step_eq, hrst, hpend, hwait]
  rfl

@[simp] theorem State.acceptMove_waiting (s : State) (i j : Fin 3) : (s.acceptMove i j).waiting = s.waiting := by
  obtain ⟨_, h⟩ := s.acceptMove_eq i j
  rw [h]

/-- A sample keeps waiting, is played and ignored, or is played and accepted: in the first two the game stays. -/
theorem takeSample_sameGame_or_oneMove {input : StepInput} {s t : State} (h : takeSample input s = .next t) :
    SameGame s t ∨ (t.waiting = false ∧ OneMove s t ∧ t.outcome = evaluatedOutcome t.cells t.moves s.outcome) := by
  obtain rfl | ⟨row, col, hplay⟩ := takeSample_cases h
  · exact .inl ⟨rfl, rfl, rfl, rfl⟩
  obtain rfl | ⟨i, j, -, -, hopen, hfree, rfl⟩ := execPlayAt_cases hplay
  · exact .inl ⟨rfl, rfl, rfl, rfl⟩
  · exact .inr ⟨State.acceptMove_waiting _ i j, State.acceptMove_oneMove hopen hfree, State.acceptMove_outcome _ i j⟩

/-- Settles O38: the step is a sample, and taking the step's inputs touches no part of the game. -/
theorem awaitMovePlacesAtMostOneMark : Obligations.AwaitMovePlacesAtMostOneMark := by
  intro s t hpend hwait hrst hstep
  rw [step_of_waiting hpend hwait hrst, State.takeInput_eq] at hstep
  obtain hsame | hmove := takeSample_sameGame_or_oneMove hstep
  · exact .inl hsame
  · exact .inr hmove

end Sys2Proof.Machine
end

section
/-! NOP and the reserved opcodes (R197, R198). -/

namespace Sys2Proof.Machine

@[simp] theorem noEffect_eq (s : State) : noEffect s = .next s := rfl

/-- Settles O40: the arm of `exec` for each of the seven commands is `noEffect`. -/
theorem nopAndReservedDoNothing : Obligations.NopAndReservedDoNothing := fun s =>
  ⟨noEffect_eq s, noEffect_eq s, noEffect_eq s, noEffect_eq s, noEffect_eq s, noEffect_eq s, noEffect_eq s⟩

end Sys2Proof.Machine
end

section
/-! Decoding what the encoder writes (R72, R82 to R84). Each of the three formats has its own reason: a frame word is
told apart by its address, a command word by its opcode, and SET_FRAME by the row operands of its eight words. -/

namespace Sys2Proof

/-- Settles O3: the decoder of the wire compares the address with the numbers of the table, one case for each. -/
theorem frameWordDecodesByAddress : Obligations.FrameWordDecodesByAddress := by
  intro a v
  have haddr : (frameWord a v).addr = a := frameWord_high a v
  have hval : (frameWord a v).val = v := frameWord_low a v
  have hnat (n : Nat) (hn : n < 256) : a = BitVec.ofNat 8 n ↔ a.toNat = n := by
    rw [← BitVec.toNat_inj, BitVec.toNat_ofNat, Nat.mod_eq_of_lt hn]
  rw [decode, decodeFrame, haddr, hval]
  split
  case h_14 => simp_all
  all_goals
    rename_i h
    obtain rfl := (hnat _ (by decide)).2 h
    rfl

theorem decodeCmd_setRow (row value : Byte) : decodeCmd (cmdWord 0x4 0 row value) = .setRow row value := by
  simp only [decodeCmd_cmdWord]

theorem decode_setFrameWords (v0 v1 v2 v3 v4 v5 v6 v7 : Byte) :
    decode (.expansion (setFrameWords v0 v1 v2 v3 v4 v5 v6 v7)) = .ok (.setFrame v0 v1 v2 v3 v4 v5 v6 v7) := by
  simp only [decode, setFrameWords, List.map_cons, List.map_nil, decodeCmd_setRow]
  rfl

/-- Settles O1: a frame by its address, SET_FRAME by its eight words, every other instruction by its opcode. -/
theorem decodeOfEncodeIsTheInstruction : Obligations.DecodeOfEncodeIsTheInstruction := by
  intro i
  cases i with
  | fRow0 v => exact frameWordDecodesByAddress 0x01 v
  | fRow1 v => exact frameWordDecodesByAddress 0x02 v
  | fRow2 v => exact frameWordDecodesByAddress 0x03 v
  | fRow3 v => exact frameWordDecodesByAddress 0x04 v
  | fRow4 v => exact frameWordDecodesByAddress 0x05 v
  | fRow5 v => exact frameWordDecodesByAddress 0x06 v
  | fRow6 v => exact frameWordDecodesByAddress 0x07 v
  | fRow7 v => exact frameWordDecodesByAddress 0x08 v
  | fDecode v => exact frameWordDecodesByAddress 0x09 v
  | fIntensity v => exact frameWordDecodesByAddress 0x0A v
  | fScanLimit v => exact frameWordDecodesByAddress 0x0B v
  | fShutdown v => exact frameWordDecodesByAddress 0x0C v
  | fDispTest v => exact frameWordDecodesByAddress 0x0F v
  | setFrame v0 v1 v2 v3 v4 v5 v6 v7 => exact decode_setFrameWords v0 v1 v2 v3 v4 v5 v6 v7
  | _ => simp only [encode, decode, decodeCmd_cmdWord, getLsbD_zero_ofNat_toNat]

/-- Settles O4: the words are literals, which the decoder evaluates. -/
theorem wordsOfTheSpecDecode : Obligations.WordsOfTheSpecDecode := by
  unfold Obligations.WordsOfTheSpecDecode
  decide

end Sys2Proof
end

section
/-! The link (R47, R105, R195): what one event does to each line and to the receiver, what a frame leaves behind, and
what pending events come to when each step performs one of them. -/

namespace Sys2Proof.Machine

/-! ## One event (R195) -/

section
variable (s : State) (L : Line) (b : Bool)

theorem State.perform_data : (s.perform ⟨L, b⟩).data = if L = .data then b else s.data := by
  rw [State.perform_eq]
  cases L <;> rfl

theorem State.perform_clock : (s.perform ⟨L, b⟩).clock = if L = .clock then b else s.clock := by
  rw [State.perform_eq]
  cases L <;> rfl

theorem State.perform_cs : (s.perform ⟨L, b⟩).cs = if L = .cs then b else s.cs := by
  rw [State.perform_eq]
  cases L <;> rfl

/-- The shift register takes DATA in exactly at a rise of CLOCK (R47). -/
theorem State.perform_sh : (s.perform ⟨L, b⟩).sh =
    if L = .clock ∧ b = true ∧ s.clock = false then s.sh.shiftConcat s.data else s.sh := by
  cases L <;> cases b <;> cases hk : s.clock <;> cases hc : s.cs <;>
    simp [State.perform, State.moveLine, isLatchEdge, isClockRise, hk, hc, State.latch, State.setLine]

/-- The device stores what the shift register holds exactly at a rise of CS (R47). -/
theorem State.perform_dev : (s.perform ⟨L, b⟩).dev =
    if L = .cs ∧ b = true ∧ s.cs = false then s.dev.write (s.sh.extractLsb' 8 8) (s.sh.extractLsb' 0 8) else s.dev := by
  cases L <;> cases b <;> cases hk : s.clock <;> cases hc : s.cs <;>
    simp [State.perform, State.moveLine, isLatchEdge, isClockRise, hk, hc, State.latch, State.setLine]

end

section
variable (s : State) (e : LineEvent)

@[simp] theorem State.perform_rows : (s.perform e).rows = s.rows := by
  rw [State.perform_eq]
  exact State.setLine_rows s e.line e.level

@[simp] theorem State.perform_pend : (s.perform e).pend = s.pend := by
  rw [State.perform_eq]
  exact State.setLine_pend s e.line e.level

@[simp] theorem State.perform_waiting : (s.perform e).waiting = s.waiting := by
  rw [State.perform_eq]
  exact State.setLine_waiting s e.line e.level

@[simp] theorem State.perform_inputs : (s.perform e).inputs = s.inputs := by
  rw [State.perform_eq]
  exact State.setLine_inputs s e.line e.level

@[simp] theorem State.perform_tick : (s.perform e).tick = s.tick := by
  rw [State.perform_eq]
  exact State.setLine_tick s e.line e.level

theorem State.perform_sameGame : SameGame s (s.perform e) := by
  rw [State.perform_eq]
  exact ⟨State.setLine_cells .., State.setLine_moves .., State.setLine_nextPlayer .., State.setLine_outcome ..⟩

end

/-- Settles O48: the step performs the event, and each part of the state has its lemma above. -/
theorem drainingPerformsOneEvent : Obligations.DrainingPerformsOneEvent := by
  intro s i rest L b es hinputs hrst hpend
  refine ⟨_, step_drain hinputs hrst hpend, State.perform_pend _ _, State.perform_inputs _ _, State.perform_data _ _ _,
    State.perform_clock _ _ _, State.perform_cs _ _ _, State.perform_rows _ _, State.perform_sameGame _ _,
    State.perform_waiting _ _, State.perform_tick _ _, ?sh, fun a => ?dev⟩
  case sh => rw [State.perform_sh, shiftConcat_eq]
  case dev =>
    rw [State.perform_dev]
    by_cases hrise : L = .cs ∧ b = true ∧ s.cs = false
    · rw [if_pos hrise, Memory.read_write]
      simp only [hrise, true_and]
    · have hrise' : ¬ (L = .cs ∧ b = true ∧ s.cs = false ∧ a = s.sh.extractLsb' 8 8) :=
        fun ⟨hL, hb, hcs, _⟩ => hrise ⟨hL, hb, hcs⟩
      rw [if_neg hrise, if_neg hrise']

/-! ## One frame (R105) -/

/-- Settles O6: `State.performAll_frame` gives the state after the frame whole. -/
theorem frameFromHighCsWritesItsPair : Obligations.FrameFromHighCsWritesItsPair := by
  intro a v s hcs
  refine ⟨_, State.performAll_frame s a v hcs, rfl, ?own, fun a' ha' => ?other, ?rest⟩
  case own => rw [Memory.read_write, if_pos rfl]
  case other => rw [Memory.read_write, if_neg ha']
  case rest => rw [← hcs]

/-- Raising CS when it is low: the device stores the pair it then holds (R47). -/
theorem State.perform_cs_high_of_low {s : State} (h : s.cs = false) :
    s.perform ⟨.cs, true⟩ =
      { s with cs := true, dev := s.dev.write (s.sh.extractLsb' 8 8) (s.sh.extractLsb' 0 8) } := by
  simp [State.perform, State.moveLine, isLatchEdge, isClockRise, h, State.latch, State.latchPair, State.setLine]

/-- Settles O7: the first event is the rise that stores the stale pair; what follows is a frame from CS high. -/
theorem frameFromLowCsWritesAStalePairFirst : Obligations.FrameFromLowCsWritesAStalePairFirst := by
  intro a v s hcs
  rw [State.performAll_frame_after_raise, State.performAll_frame _ a v s.perform_cs_high_cs,
    State.perform_cs_high_of_low hcs]
  refine ⟨?stale, rfl, fun a' => ?read⟩
  case stale => rw [Memory.read_write, if_pos rfl]
  case read => rw [Memory.read_write, Memory.read_write]

/-! ## Frames one after another (R60) -/

theorem Memory.read_writes_of_not_named {ps : List (Byte × Byte)} {a : Byte} (h : ∀ p ∈ ps, p.1 ≠ a) (m : Memory) :
    (ps.foldl (fun m p => m.write p.1 p.2) m).read a = m.read a := by
  induction ps generalizing m with
  | nil => rfl
  | cons p ps ih =>
    obtain ⟨hp, hps⟩ := List.forall_mem_cons.1 h
    rw [List.foldl_cons, ih hps, Memory.read_write, if_neg (Ne.symm hp)]

theorem Memory.read_writes_of_last {qs : List (Byte × Byte)} {a : Byte} (h : ∀ q ∈ qs, q.1 ≠ a)
    (ps : List (Byte × Byte)) (v : Byte) (m : Memory) :
    ((ps ++ (a, v) :: qs).foldl (fun m p => m.write p.1 p.2) m).read a = v := by
  rw [List.foldl_append, List.foldl_cons, Memory.read_writes_of_not_named h, Memory.read_write, if_pos rfl]

/-- Settles O8: frames write their pairs in order, and the last write to a register is the one that is read. -/
theorem framesAreLatchedInOrder : Obligations.FramesAreLatchedInOrder := by
  intro ps qs a v s hcs hqs
  obtain ⟨hall, -⟩ := State.performAll_frames_dev (ps ++ (a, v) :: qs) s hcs
  obtain ⟨hothers, hcs'⟩ := State.performAll_frames_dev qs s hcs
  rw [hall, hothers]
  exact ⟨Memory.read_writes_of_last hqs ps v _, Memory.read_writes_of_not_named hqs _, hcs'⟩

/-! ## Draining (R195, R196) -/

/-- Settles O9: 51 steps perform the 51 events of the frame, from CS high. -/
theorem pendingFrameIsDeliveredInFiftyOneSteps : Obligations.PendingFrameIsDeliveredInFiftyOneSteps := by
  intro a v rest s hpend hcs hreset
  have hrun := run_drains (frame a v) rest s hpend hreset
  rw [frame_length, State.performAll_frame s a v hcs] at hrun
  refine ⟨_, hrun, rfl, rfl, rfl, ?own, fun a' ha' => ?other, rfl, ⟨rfl, rfl, rfl, rfl⟩, rfl, hcs, rfl, rfl⟩
  case own => rw [Memory.read_write, if_pos rfl]
  case other => rw [Memory.read_write, if_neg ha']

/-- Settles O49: with nothing behind the pending events, draining them is settling. -/
theorem pendingEventsDrainOneAStep : Obligations.PendingEventsDrainOneAStep := by
  intro s hreset
  have hsettle : s.settle = { s.performAll s.pend with pend := [], inputs := s.inputs } :=
    State.performAll_with s s.pend [] s.inputs
  rw [run_drains s.pend [] s (List.append_nil _).symm hreset, hsettle]

end Sys2Proof.Machine
end

section
/-! The step relation (R191, R194). `StepBranch` says once what the state after a step can be: one constructor for
each of the five branches, with the conditions under which the step takes it. -/

namespace Sys2Proof.Machine

/-! ## Taking the inputs of a step -/

section
variable (s : State)

@[simp] theorem State.takeInput_rows : s.takeInput.2.rows = s.rows := by rw [State.takeInput_eq]
@[simp] theorem State.takeInput_cells : s.takeInput.2.cells = s.cells := by rw [State.takeInput_eq]
@[simp] theorem State.takeInput_pend : s.takeInput.2.pend = s.pend := by rw [State.takeInput_eq]
@[simp] theorem State.takeInput_waiting : s.takeInput.2.waiting = s.waiting := by rw [State.takeInput_eq]
@[simp] theorem State.takeInput_cs : s.takeInput.2.cs = s.cs := by rw [State.takeInput_eq]

theorem State.takeInput_sameGame : SameGame s s.takeInput.2 := by
  rw [State.takeInput_eq]
  exact ⟨rfl, rfl, rfl, rfl⟩

theorem State.takeInput_sameLink : SameLink s s.takeInput.2 := by
  rw [State.takeInput_eq]
  exact ⟨rfl, rfl, rfl, rfl, rfl⟩

end

/-- A step whose input is listed (R192). -/
theorem step_of_inputs {s : State} {i : StepInput} {rest : List StepInput} (h : s.inputs = i :: rest) :
    step s = cycle i { s with inputs := rest } := by
  rw [step, State.takeInput_cons s i rest h]

/-- The first of the inputs that hold no reset, and the others (R192). -/
theorem NoReset.uncons {k : Nat} {s : State} (h : NoReset (k + 1) s) :
    ∃ i rest, s.inputs = i :: rest ∧ i.rst = false ∧ ∀ t : State, t.inputs = rest → NoReset k t := by
  obtain ⟨hlength, hrst⟩ := h
  cases hinputs : s.inputs with
  | nil =>
    rw [hinputs] at hlength
    exact absurd hlength (Nat.not_succ_le_zero k)
  | cons i rest =>
    rw [hinputs, List.take_succ_cons] at hrst
    rw [hinputs, List.length_cons] at hlength
    obtain ⟨hi, hothers⟩ := List.forall_mem_cons.1 hrst
    exact ⟨i, rest, rfl, hi, fun t ht => ⟨ht ▸ Nat.le_of_succ_le_succ hlength, ht ▸ hothers⟩⟩

/-! ## The five branches (R194) -/

/-- What the state `t` after a step from `s` can be: reset, drain, sample, accept or idle (R194). -/
inductive StepBranch (s t : State) : Prop
  /-- `rst = 1`: the reset values, and the pair latched if CS was low (R240, R256). -/
  | reset (hrst : s.takeInput.1.rst = true)
      (ht : t = s.takeInput.2.resetBlock ∨ t = s.takeInput.2.resetBlock.latch)
  /-- PEND is not empty: its first event is performed (R195). -/
  | drain (e : LineEvent) (rest : List LineEvent) (hrst : s.takeInput.1.rst = false) (hpend : s.pend = e :: rest)
      (ht : t = ({ s.takeInput.2 with pend := rest } : State).perform e)
  /-- An AWAIT_MOVE waits: one sample (R174). -/
  | sample (hrst : s.takeInput.1.rst = false) (hpend : s.pend = []) (hwait : s.waiting = true)
      (hsample : takeSample s.takeInput.1 s.takeInput.2 = .next t)
  /-- A command is accepted (R193). -/
  | accept (hrst : s.takeInput.1.rst = false) (hpend : s.pend = []) (hwait : s.waiting = false)
      (hvalid : s.takeInput.1.cmdValid = true) (hexec : exec (decodeCmd s.takeInput.1.cmd) s.takeInput.2 = .next t)
  /-- Nothing is offered: only the inputs of the step are used (R191). -/
  | idle (hrst : s.takeInput.1.rst = false) (hpend : s.pend = []) (hwait : s.waiting = false)
      (hvalid : s.takeInput.1.cmdValid = false) (ht : t = s.takeInput.2)

/-- Every step takes one of the five branches. -/
theorem step_branch {s t : State} (h : step s = .next t) : StepBranch s t := by
  rw [step_eq] at h
  cases hrst : s.takeInput.1.rst with
  | true =>
    rw [hrst, if_pos rfl] at h
    cases h
    refine .reset hrst ?_
    cases s.cs
    · exact .inr rfl
    · exact .inl rfl
  | false =>
    rw [hrst] at h
    cases hpend : s.pend with
    | cons e rest =>
      rw [hpend] at h
      cases h
      exact .drain e rest hrst hpend rfl
    | nil =>
      rw [hpend] at h
      cases hwait : s.waiting with
      | true =>
        rw [hwait] at h
        exact .sample hrst hpend hwait h
      | false =>
        cases hvalid : s.takeInput.1.cmdValid with
        | true =>
          rw [hwait, hvalid] at h
          exact .accept hrst hpend hwait hvalid h
        | false =>
          rw [hwait, hvalid] at h
          cases h
          exact .idle hrst hpend hwait hvalid rfl

/-- The accepting branch is the one in which R191 accepts the command. -/
theorem acceptedCommand?_of_accept {s : State} (hrst : s.takeInput.1.rst = false) (hpend : s.pend = [])
    (hwait : s.waiting = false) (hvalid : s.takeInput.1.cmdValid = true) :
    acceptedCommand? s = some (decodeCmd s.takeInput.1.cmd) := by
  simp [acceptedCommand?, State.cmdReady, hrst, hpend, hwait, hvalid]

/-! ## Steps whose branch is known -/

/-- Settles O46: the accepting branch. -/
theorem stepRunsTheAcceptedCommand : Obligations.StepRunsTheAcceptedCommand := by
  intro s i rest hinputs hrst hvalid ⟨hpend, hwait⟩
  rw [step_eq, State.takeInput_cons s i rest hinputs, hpend, hwait]
  simp [hrst, hvalid]

theorem runLatched_of_decodeFrame {s : State} {f : Instr} (h : decodeFrame s.sh = .ok f) :
    runLatched s = exec f s := by
  rw [runLatched, h]

/-- Settles O47: the event is performed by latching, and a frame of the table is latched by running it. -/
theorem stepRunsTheLatchedFrame : Obligations.StepRunsTheLatchedFrame := by
  intro s i rest es f hinputs hrst hpend hcs hdecode
  have hlatch : ({ s with inputs := rest, pend := es } : State).perform ⟨.cs, true⟩ =
      ({ s with inputs := rest, pend := es, cs := true } : State).latch := State.perform_cs_high_of_low hcs
  calc step s = .next (({ s with inputs := rest, pend := es } : State).perform ⟨.cs, true⟩) :=
        step_drain hinputs hrst hpend
    _ = .next ({ s with inputs := rest, pend := es, cs := true } : State).latch := by rw [hlatch]
    _ = runLatched { s with inputs := rest, pend := es, cs := true } := (runLatched_eq _).symm
    _ = exec f { s with inputs := rest, pend := es, cs := true } := runLatched_of_decodeFrame hdecode

/-- Settles O50: the reset branch; only the latch of a CS that was low touches the device. -/
theorem resetWinsOverEverything : Obligations.ResetWinsOverEverything := by
  intro s i rest hinputs hrst
  rw [step_eq, State.takeInput_cons s i rest hinputs, if_pos hrst]
  refine ⟨_, rfl, ?_⟩
  cases s.cs with
  | true => exact ⟨rfl, fun a => rfl⟩
  | false =>
    refine ⟨rfl, fun a => ?_⟩
    simp only [true_and]
    exact Memory.read_write s.dev _ _ _

/-- Settles O51: the record that `State.reset` is. -/
theorem resetValues : Obligations.ResetValues := by
  unfold Obligations.ResetValues
  decide

/-! ## Inputs that a step does not look at (R173, R191) -/

/-- Settles O52: while the block is not ready the branch is reset, drain or sample, and none of them reads the offer. -/
theorem offersAreIgnoredWhileBusy : Obligations.OffersAreIgnoredWhileBusy := by
  refine ⟨fun s i valid word rest hbusy => ?busy, fun s i rest hinputs hrst hvalid ⟨hpend, hwait⟩ => ?idle⟩
  case busy =>
    rw [step_of_inputs rfl, step_of_inputs rfl]
    cases hpend : s.pend with
    | cons e es => simp only [cycle]
    | nil =>
      have hwait : s.waiting = true := by simpa [State.cmdReady, hpend] using hbusy
      simp only [cycle, hwait]
      rfl
  case idle =>
    rw [step_of_inputs hinputs]
    simp [cycle, hrst, hvalid, hpend, hwait]

/-- Settles O53: the sample alone reads the position lines and the draw. -/
theorem positionLinesMatterOnlyWhileWaiting : Obligations.PositionLinesMatterOnlyWhileWaiting := by
  intro s i bus ovr d rest hwait
  rw [step_of_inputs rfl, step_of_inputs rfl]
  simp only [cycle, hwait]
  rfl

/-! ## The wait (R174, R251) -/

/-- Settles O36: the meaning of AWAIT_MOVE is `State.setWaiting`. -/
theorem awaitMoveStartsTheWait : Obligations.AwaitMoveStartsTheWait := fun _ => rfl

/-- Settles O37: the sampling branch, with the two outcomes of a sample. -/
theorem sampleEndsTheWaitWithAMove : Obligations.SampleEndsTheWaitWithAMove := by
  intro s i rest hinputs hrst hpend hwait
  have htake := State.takeInput_cons s i rest hinputs
  rw [step_of_waiting hpend hwait (by rw [htake]; exact hrst), htake]
  rfl

/-- Settles O39: by induction on the number of samples, each of which uses its input and nothing else. -/
theorem silentBusWaitsForEver : Obligations.SilentBusWaitsForEver := by
  intro k
  induction k with
  | zero => exact fun s _ _ _ _ => rfl
  | succ k ih =>
    intro s hpend hwait hreset hsilent
    obtain ⟨i, rest, hinputs, hrst, hrest⟩ := hreset.uncons
    rw [hinputs, List.take_succ_cons] at hsilent
    obtain ⟨hnow, hlater⟩ := List.forall_mem_cons.1 hsilent
    have hstep : step s = .next { s with inputs := rest } := by
      rw [sampleEndsTheWaitWithAMove s i rest hinputs hrst hpend hwait, if_pos hnow]
    rw [runSteps_next k hstep, ih { s with inputs := rest } hpend hwait (hrest _ rfl) hlater, hinputs,
      List.drop_succ_cons]

end Sys2Proof.Machine
end

section
/-! The serial and the display commands (R101, R102, R120 to R122). Each gets an equation that gives the state it
answers; the statements read that state off. -/

namespace Sys2Proof.Machine

/-! ## The serial commands (R101, R102) -/

/-- Settles O10: the meaning of WRITE_REG is `State.sendFrame`. -/
theorem writeRegSendsOneFrame : Obligations.WriteRegSendsOneFrame := fun _ _ _ => rfl

/-- The frames of DEV_INIT are those its rule calls (R102), and every row of the cache becomes 0. -/
theorem exec_devInit (level : Byte) (s : State) :
    exec (.devInit level) s = .next
      { s with
        rows := Vector.replicate 8 0x00#8
        pend := s.pend ++ frames (frameCalls (.devInit level) s) } := by
  simp [exec, execDevInit, State.clearRows_eq, State.sendFrame, State.emit, frameCalls, frames]

/-- Settles O12: thirteen frames of 51 events each; the mask of the intensity is the same for 0x1F and 0x0F. -/
theorem devInitSendsTheThirteenFrames : Obligations.DevInitSendsTheThirteenFrames := by
  refine ⟨exec_devInit, fun level s t hpend hexec => ?length, fun s => ?levels⟩
  case length =>
    rw [exec_devInit] at hexec
    cases hexec
    rw [hpend, List.nil_append, frames_length]
    rfl
  case levels =>
    rw [exec_devInit, exec_devInit]
    rfl

/-! ## SET_PIXEL, SET_ROW, CLEAR (R120 to R122) -/

theorem exec_setPixel_of_in_range {row col : Byte} {r c : Fin 8} (hr : row.toNat = r.val) (hc : col.toNat = c.val)
    (on : Bool) (s : State) :
    exec (.setPixel row col on) s = .next (s.sendRow r (withPixel (s.row r) c on)) := by
  rw [exec, execSetPixel, displayIndex?_of_lt hr, displayIndex?_of_lt hc, ← State.setPixelAt_eq]

theorem State.sendRow_row_self (s : State) (r : Fin 8) (v : Byte) : (s.sendRow r v).row r = v := by
  rw [State.sendRow_row, if_pos rfl]

theorem State.sendRow_row_of_ne (s : State) {r r' : Fin 8} (h : r' ≠ r) (v : Byte) :
    (s.sendRow r v).row r' = s.row r' := by
  rw [State.sendRow_row, if_neg h]

theorem State.sendRow_eq (s : State) (r : Fin 8) (v : Byte) :
    s.sendRow r v = { s with rows := (s.sendRow r v).rows, pend := s.pend ++ frame (rowAddress r) v } := rfl

/-- Settles O14: in range the command is `State.sendRow` of the row with its pixel changed. -/
theorem setPixelInRange : Obligations.SetPixelInRange := by
  intro row col on s r c hr hc
  refine ⟨_, exec_setPixel_of_in_range hr hc on s, s.sendRow_row_self r _, fun r' hr' => s.sendRow_row_of_ne hr' _, ?_⟩
  rw [State.sendRow_row_self, ← rowAddress_of_byte hr]
  exact State.sendRow_eq s r _

/-- Settles O17: in range the command is `State.sendRow`; out of range it is O16's. -/
theorem setRowReplacesTheRow : Obligations.SetRowReplacesTheRow := by
  obtain ⟨-, hout⟩ := outOfRangeDisplayCommandsDoNothing
  refine ⟨fun row value s r hr => ?_, hout⟩
  have hexec : exec (.setRow row value) s = .next (s.sendRow r value) :=
    congrArg Host.Outcome.next (State.setRowAt_of_in_range hr value s)
  refine ⟨_, hexec, s.sendRow_row_self r _, fun r' hr' => s.sendRow_row_of_ne hr' _, ?_⟩
  rw [← rowAddress_of_byte hr]
  exact State.sendRow_eq s r _

/-- Settles O18: the addresses of the eight rows are 0x01 to 0x08. -/
theorem clearBlanksTheCache : Obligations.ClearBlanksTheCache := fun s => congrArg Host.Outcome.next s.clearRows_eq

/-- Settles O15: the bit of every pixel after a SET_PIXEL says all of it: the caches agree when their pixels do. -/
theorem setPixelChangesOneBit : Obligations.SetPixelChangesOneBit := by
  refine ⟨fun row col on s r c hr hc => ?one,
    fun row col row' col' on on' s t u t' u' hr hc hr' hc' hne ht hu ht' hu' => ?two⟩
  case one =>
    refine ⟨_, exec_setPixel_of_in_range hr hc on s, fun r' c' => ?bit, ?pend⟩
    case bit => rw [← State.setPixelAt_eq, State.setPixelAt_bit]
    case pend => rw [State.sendRow_row_self, ← rowAddress_of_byte hr]; rfl
  case two =>
    have hexec {row col : Byte} (hr : row.toNat < 8) (hc : col.toNat < 8) (on : Bool) (s : State) :
        exec (.setPixel row col on) s = .next (s.setPixelAt ⟨row.toNat, hr⟩ ⟨col.toNat, hc⟩ on) := by
      rw [State.setPixelAt_eq]
      exact exec_setPixel_of_in_range rfl rfl on s
    rw [hexec hr hc] at ht hu'
    rw [hexec hr' hc'] at hu ht'
    cases ht; cases hu; cases ht'; cases hu'
    refine rows_ext fun r => byte_ext fun c => ?_
    simp only [State.setPixelAt_bit]
    split_ifs with h h'
    · exfalso
      obtain ⟨rfl, rfl⟩ := h
      obtain ⟨hrow, hcol⟩ := h'
      exact hne (Prod.ext (BitVec.toNat_inj.1 (Fin.mk.inj hrow).symm) (BitVec.toNat_inj.1 (Fin.mk.inj hcol).symm))
    all_goals rfl

end Sys2Proof.Machine
end

section
/-! What an instruction can do (R10, R193, R210). `ExecEffect` says it once, one constructor for each kind of effect;
what an instruction leaves alone is then read off case by case. -/

namespace Sys2Proof.Machine

/-! ## The kinds of instructions -/

/-- The sixteen command words (R75): all but the pseudo-instruction and the frames of the device. -/
def isCommand : Instr → Bool
  | .setFrame _ _ _ _ _ _ _ _ | .fRow0 _ | .fRow1 _ | .fRow2 _ | .fRow3 _ | .fRow4 _ | .fRow5 _ | .fRow6 _ | .fRow7 _
  | .fDecode _ | .fIntensity _ | .fScanLimit _ | .fShutdown _ | .fDispTest _ => false
  | _ => true

/-- The commands that write rows of the cache and send them, whatever the game (R102, R120 to R122). -/
def isDrawing : Instr → Bool
  | .devInit _ | .setPixel _ _ _ | .setRow _ _ | .clear => true
  | _ => false

/-- The pair that a frame of the device stores (R50, log entry 6). -/
def latchedByFrame? : Instr → Option (Byte × Byte)
  | .fRow0 v => some (0x01, v)
  | .fRow1 v => some (0x02, v)
  | .fRow2 v => some (0x03, v)
  | .fRow3 v => some (0x04, v)
  | .fRow4 v => some (0x05, v)
  | .fRow5 v => some (0x06, v)
  | .fRow6 v => some (0x07, v)
  | .fRow7 v => some (0x08, v)
  | .fDecode v => some (0x09, v)
  | .fIntensity v => some (0x0A, v)
  | .fScanLimit v => some (0x0B, v)
  | .fShutdown v => some (0x0C, v)
  | .fDispTest v => some (0x0F, v)
  | _ => none

theorem latchedByFrame?_of_isCommand {i : Instr} (h : isCommand i = true) : latchedByFrame? i = none := by
  cases i with
  | fRow0 | fRow1 | fRow2 | fRow3 | fRow4 | fRow5 | fRow6 | fRow7 | fDecode | fIntensity | fScanLimit | fShutdown
  | fDispTest => cases h
  | _ => rfl

theorem isCommand_decodeCmd (w : CmdWord) : isCommand (decodeCmd w) = true := by
  unfold decodeCmd
  split <;> rfl

/-! ## SET_FRAME as a run of SET_ROW commands (R123) -/

/-- A run of SET_ROW commands, each accepted once what is pending has been performed (R191). -/
def State.runSetRows (s : State) (ps : List (Byte × Byte)) : State := ps.foldl (fun t p => t.thenSetRow p.1 p.2) s

theorem exec_setFrame (v0 v1 v2 v3 v4 v5 v6 v7 : Byte) (s : State) :
    exec (.setFrame v0 v1 v2 v3 v4 v5 v6 v7) s =
      .next ((s.setRowAt 0 v0).runSetRows [(1, v1), (2, v2), (3, v3), (4, v4), (5, v5), (6, v6), (7, v7)]) := rfl

/-- Same game, WAITING and inputs: what a SET_ROW leaves alone, and what the events before it leave alone. -/
def SameControl (s t : State) : Prop := SameGame s t ∧ t.waiting = s.waiting ∧ SameInputs s t

theorem SameControl.trans {s t u : State} (hst : SameControl s t) (htu : SameControl t u) : SameControl s u := by
  obtain ⟨hgame, hwait, hinputs, htick⟩ := hst
  obtain ⟨hgame', hwait', hinputs', htick'⟩ := htu
  exact ⟨hgame.trans hgame', hwait'.trans hwait, hinputs'.trans hinputs, htick'.trans htick⟩

theorem State.settle_sameControl (s : State) : SameControl s s.settle := by
  rw [State.settle_eq]
  exact ⟨⟨rfl, rfl, rfl, rfl⟩, rfl, rfl, rfl⟩

theorem State.setRowAt_sameControl (s : State) (row value : Byte) : SameControl s (s.setRowAt row value) := by
  obtain ⟨es, h⟩ := State.setRowAt_eq s row value
  rw [h]
  exact ⟨⟨rfl, rfl, rfl, rfl⟩, rfl, rfl, rfl⟩

theorem State.runSetRows_sameControl (ps : List (Byte × Byte)) (s : State) : SameControl s (s.runSetRows ps) := by
  induction ps generalizing s with
  | nil => exact ⟨⟨rfl, rfl, rfl, rfl⟩, rfl, rfl, rfl⟩
  | cons p ps ih => exact (s.settle_sameControl.trans (s.settle.setRowAt_sameControl p.1 p.2)).trans (ih _)

/-! ## The effect of every instruction -/

/-- What the state after an instruction can be. -/
inductive ExecEffect (s : State) : Instr → State → Prop
  /-- NOP, a reserved command, a violation that is absorbed, an ignored move (R150, R197, R198, R211). -/
  | nothing (i : Instr) : ExecEffect s i s
  /-- WRITE_REG sends its frame (R101). -/
  | send (a v : Byte) : ExecEffect s (.writeReg a v) (s.sendFrame a v)
  /-- A drawing command writes rows and emits. -/
  | draw {i : Instr} (hi : isDrawing i = true) (rows : Vector Byte 8) (es : List LineEvent) :
      ExecEffect s i { s with rows := rows, pend := s.pend ++ es }
  /-- PLAY_AT is accepted (R142). -/
  | move (row col : Byte) (i j : Fin 3) (hopen : s.outcome = .inProgress) (hfree : s.cell (boardIndex i j) = .empty) :
      ExecEffect s (.playAt row col) (s.acceptMove i j)
  /-- GAME_INIT (R140). -/
  | newGame : ExecEffect s .gameInit s.newGame
  /-- EVALUATE (R146). -/
  | evaluate : ExecEffect s .evaluate s.evaluate
  /-- AWAIT_MOVE (R174). -/
  | await : ExecEffect s .awaitMove (s.setWaiting true)
  /-- SET_FRAME performs events, writes rows and emits (R123). -/
  | run {t : State} (v0 v1 v2 v3 v4 v5 v6 v7 : Byte) (ht : SameControl s t) :
      ExecEffect s (.setFrame v0 v1 v2 v3 v4 v5 v6 v7) t
  /-- The device stores the pair of a frame (R47). -/
  | latch {i : Instr} {a v : Byte} (hi : latchedByFrame? i = some (a, v)) : ExecEffect s i (s.latchPair a v)

/-- What PLAY_AT can do (R141). -/
theorem execPlayAt_effect {row col : Byte} {s t : State} (h : execPlayAt row col s = .next t) :
    ExecEffect s (.playAt row col) t := by
  obtain rfl | ⟨i, j, -, -, hopen, hfree, rfl⟩ := execPlayAt_cases h
  · exact .nothing _
  · exact .move row col i j hopen hfree

/-- What SET_PIXEL can do (R120): nothing, or send its row with the pixel changed. -/
theorem execSetPixel_cases {row col : Byte} {on : Bool} {s t : State} (h : execSetPixel row col on s = .next t) :
    t = s ∨ ∃ r c : Fin 8, t = s.sendRow r (withPixel (s.row r) c on) := by
  unfold execSetPixel at h
  split at h
  · rename_i r c _ _
    cases h
    exact .inr ⟨r, c, s.setPixelAt_eq r c on⟩
  · cases h
    exact .inl rfl

/-- Every instruction has one of the effects above. -/
theorem exec_effect {i : Instr} {s t : State} (h : exec i s = .next t) : ExecEffect s i t := by
  cases i with
  | playAt row col => exact execPlayAt_effect h
  | setPixel row col on =>
    obtain rfl | ⟨r, c, rfl⟩ := execSetPixel_cases h
    · exact .nothing _
    · exact .draw rfl _ _
  | setRow row value =>
    cases h
    obtain ⟨es, ht⟩ := State.setRowAt_eq s row value
    rw [ht]
    exact .draw rfl _ _
  | clear =>
    cases h
    rw [State.clearRows_eq]
    exact .draw rfl _ _
  | devInit level =>
    rw [exec_devInit] at h
    cases h
    exact .draw rfl _ _
  | setFrame v0 v1 v2 v3 v4 v5 v6 v7 =>
    rw [exec_setFrame] at h
    obtain rfl := Host.Outcome.next.inj h
    exact .run v0 v1 v2 v3 v4 v5 v6 v7 ((s.setRowAt_sameControl 0 v0).trans (State.runSetRows_sameControl _ _))
  | writeReg a v => cases h; exact .send a v
  | gameInit => cases h; exact .newGame
  | evaluate => cases h; exact .evaluate
  | awaitMove => cases h; exact .await
  | nop => cases h; exact .nothing _
  | reservedA => cases h; exact .nothing _
  | reservedB => cases h; exact .nothing _
  | reservedC => cases h; exact .nothing _
  | reservedD => cases h; exact .nothing _
  | reservedE => cases h; exact .nothing _
  | reservedF => cases h; exact .nothing _
  | _ => cases h; exact .latch rfl

/-! ## The frames of the device (R50) -/

theorem exec_of_latchedByFrame? {i : Instr} {a v : Byte} (h : latchedByFrame? i = some (a, v)) (s : State) :
    exec i s = .next (s.latchPair a v) := by
  cases i <;> cases h <;> rfl

/-- Settles O41: each frame of the list stores the pair of its address and its value. -/
theorem latchedFrameWritesItsRegister : Obligations.LatchedFrameWritesItsRegister := by
  intro v s i a hmem
  have hpair : latchedByFrame? i = some (a, v) := by
    simp only [List.mem_cons, List.not_mem_nil, or_false, Prod.mk.injEq] at hmem
    rcases hmem with h | h | h | h | h | h | h | h | h | h | h | h | h <;> rw [h.1, h.2] <;> rfl
  refine ⟨_, exec_of_latchedByFrame? hpair s, ?own, fun a' ha' => ?other, rfl⟩
  case own => rw [State.latchPair_dev, Memory.read_write, if_pos rfl]
  case other => rw [State.latchPair_dev, Memory.read_write, if_neg ha']

/-! ## One outcome (R107, R210) -/

theorem execSetPixel_next (row col : Byte) (on : Bool) (s : State) : ∃ t, execSetPixel row col on s = .next t := by
  unfold execSetPixel
  split <;> exact ⟨_, rfl⟩

theorem exec_next (i : Instr) (s : State) : ∃ t, exec i s = .next t := by
  cases i with
  | playAt row col => exact execPlayAt_next row col s
  | setPixel row col on => exact execSetPixel_next row col on s
  | _ => exact ⟨_, rfl⟩

/-- Each branch of a step answers a state, by itself or because what it runs does (R194). -/
theorem step_next (s : State) : ∃ t, step s = .next t := by
  rw [step_eq]
  split
  case isTrue => exact ⟨_, rfl⟩
  case isFalse =>
    split
    case h_1 => exact ⟨_, rfl⟩
    case h_2 =>
      split
      case isTrue => exact takeSample_next _ _
      case isFalse =>
        split
        case isTrue => exact exec_next _ _
        case isFalse => exact ⟨_, rfl⟩

/-- Settles O54: the two lemmas above. -/
theorem everyStepHasANextState : Obligations.EveryStepHasANextState := ⟨exec_next, step_next⟩

/-! ## What an instruction leaves alone (R10) -/

theorem State.acceptMove_sameInputs (s : State) (i j : Fin 3) : SameInputs s (s.acceptMove i j) := by
  obtain ⟨_, h⟩ := s.acceptMove_eq i j
  rw [h]
  exact ⟨rfl, rfl⟩

theorem State.acceptMove_sameLink (s : State) (i j : Fin 3) : SameLink s (s.acceptMove i j) := by
  obtain ⟨_, h⟩ := s.acceptMove_eq i j
  rw [h]
  exact ⟨rfl, rfl, rfl, rfl, rfl⟩

section
variable {s t : State} {i : Instr}

theorem ExecEffect.sameInputs (h : ExecEffect s i t) : SameInputs s t := by
  cases h with
  | move row col i j => exact s.acceptMove_sameInputs i j
  | run v0 v1 v2 v3 v4 v5 v6 v7 ht =>
    obtain ⟨-, -, hinputs⟩ := ht
    exact hinputs
  | _ => exact ⟨rfl, rfl⟩

theorem ExecEffect.sameGame (h : ExecEffect s i t) (hplay : ∀ row col, i ≠ .playAt row col) (hinit : i ≠ .gameInit)
    (heval : i ≠ .evaluate) : SameGame s t := by
  cases h with
  | move row col => exact absurd rfl (hplay row col)
  | newGame => exact absurd rfl hinit
  | evaluate => exact absurd rfl heval
  | run v0 v1 v2 v3 v4 v5 v6 v7 ht =>
    obtain ⟨hgame, -, -⟩ := ht
    exact hgame
  | _ => exact ⟨rfl, rfl, rfl, rfl⟩

theorem ExecEffect.waiting (h : ExecEffect s i t) (hawait : i ≠ .awaitMove) : t.waiting = s.waiting := by
  cases h with
  | move row col i j => exact s.acceptMove_waiting i j
  | await => exact absurd rfl hawait
  | run v0 v1 v2 v3 v4 v5 v6 v7 ht =>
    obtain ⟨-, hwait, -⟩ := ht
    exact hwait
  | _ => rfl

theorem ExecEffect.rows (h : ExecEffect s i t) (hdraw : isDrawing i = false) (hplay : ∀ row col, i ≠ .playAt row col)
    (hrun : ∀ v0 v1 v2 v3 v4 v5 v6 v7, i ≠ .setFrame v0 v1 v2 v3 v4 v5 v6 v7) : t.rows = s.rows := by
  cases h with
  | draw hi => exact absurd hi (by rw [hdraw]; decide)
  | move row col => exact absurd rfl (hplay row col)
  | run v0 v1 v2 v3 v4 v5 v6 v7 => exact absurd rfl (hrun v0 v1 v2 v3 v4 v5 v6 v7)
  | _ => rfl

/-- No command touches the lines or the device: it emits, and the events are performed later (R193, R195). -/
theorem ExecEffect.sameLink (h : ExecEffect s i t) (hi : isCommand i = true) : SameLink s t := by
  cases h with
  | move row col i j => exact s.acceptMove_sameLink i j
  | run => cases hi
  | latch hlatch =>
    rw [latchedByFrame?_of_isCommand hi] at hlatch
    cases hlatch
  | _ => exact ⟨rfl, rfl, rfl, rfl, rfl⟩

/-- Every instruction but SET_FRAME leaves the lines and the shift register, and emits after what is pending. -/
theorem ExecEffect.sameLines (h : ExecEffect s i t)
    (hrun : ∀ v0 v1 v2 v3 v4 v5 v6 v7, i ≠ .setFrame v0 v1 v2 v3 v4 v5 v6 v7) :
    SameLines s t ∧ t.sh = s.sh ∧ ∃ es, t.pend = s.pend ++ es := by
  have hnone : s.pend = s.pend ++ [] := (List.append_nil _).symm
  cases h with
  | send a v => exact ⟨⟨rfl, rfl, rfl⟩, rfl, _, rfl⟩
  | draw hi rows es => exact ⟨⟨rfl, rfl, rfl⟩, rfl, es, rfl⟩
  | move row col i j =>
    obtain ⟨hdata, hclock, hcs, hsh, -⟩ := s.acceptMove_sameLink i j
    exact ⟨⟨hdata, hclock, hcs⟩, hsh, _, s.acceptMove_pend i j⟩
  | run v0 v1 v2 v3 v4 v5 v6 v7 => exact absurd rfl (hrun v0 v1 v2 v3 v4 v5 v6 v7)
  | _ => exact ⟨⟨rfl, rfl, rfl⟩, rfl, [], hnone⟩

end

/-- Settles O55: one lemma about `ExecEffect` for each clause. -/
theorem instructionsWriteOnlyTheirOwnState : Obligations.InstructionsWriteOnlyTheirOwnState := by
  intro i s t hexec
  have heffect := exec_effect hexec
  refine ⟨heffect.sameInputs, heffect.sameGame, heffect.waiting, ?rows, heffect.sameLines, ?device⟩
  case rows =>
    intro hinit hpixel hrow hclear hplay hrun
    have hdraw : isDrawing i = false := by
      cases i with
      | devInit l => exact absurd rfl (hinit l)
      | setPixel r c on => exact absurd rfl (hpixel r c on)
      | setRow r v => exact absurd rfl (hrow r v)
      | clear => exact absurd rfl hclear
      | _ => rfl
    exact heffect.rows hdraw hplay hrun
  case device =>
    rintro ⟨w, rfl⟩
    obtain ⟨-, -, -, hsh, hdev⟩ := heffect.sameLink (isCommand_decodeCmd w)
    exact ⟨hsh, fun a => by rw [hdev]⟩

end Sys2Proof.Machine
end

section
/-! What the device holds once everything pending has been performed (R12, R105, R246). Frames sent behind a chip
select that rests high are written in order: `settle_of_sends` says so of any command, and the rest is reading off its
frames. -/

namespace Sys2Proof.Machine

/-! ## Settling after a command -/

section
variable {s t : State}

theorem SameLink.settle_emitted (hlink : SameLink s t) {es : List LineEvent} (hpend : t.pend = s.pend ++ es) :
    SameLink (s.settle.performAll es) t.settle := by
  rw [← State.settle_emit]
  exact SameLink.settle (s := s.emit es) hlink hpend

/-- Frames sent behind a chip select at rest are written in order, and it rests again (R105). -/
theorem settle_of_sends (hlink : SameLink s t) {ps : List (Byte × Byte)} (hpend : t.pend = s.pend ++ frames ps)
    (hrest : RestsHigh s) :
    t.settle.dev = ps.foldl (fun m p => m.write p.1 p.2) s.settle.dev ∧ RestsHigh t := by
  obtain ⟨-, -, hcs, -, hdev⟩ := hlink.settle_emitted hpend
  obtain ⟨hwrites, hhigh⟩ := State.performAll_frames_dev ps s.settle hrest
  exact ⟨hdev.trans hwrites, hcs.trans hhigh⟩

theorem RestsHigh.congr (hlink : SameLink s t) (hpend : t.pend = s.pend) (hrest : RestsHigh s) : RestsHigh t := by
  obtain ⟨-, -, hcs, -, -⟩ := hlink.settle hpend
  exact hcs.trans hrest

/-- A command writes the frames it calls, once they have been performed (R193, R200). -/
theorem settle_of_command {i : Instr} (hi : isCommand i = true) (hexec : exec i s = .next t) (hrest : RestsHigh s) :
    t.settle.dev = (frameCalls i s).foldl (fun m p => m.write p.1 p.2) s.settle.dev ∧ RestsHigh t := by
  have hpend := exec_pend (by rintro v0 v1 v2 v3 v4 v5 v6 v7 rfl; cases hi) hexec
  exact settle_of_sends ((exec_effect hexec).sameLink hi) hpend hrest

/-- A step that drains leaves what the pending events come to (R195). -/
theorem SameLink.settle_drained {e : LineEvent} {rest : List LineEvent} (hpend : s.pend = e :: rest) :
    SameLink s.settle (({ s.takeInput.2 with pend := rest } : State).perform e).settle := by
  have hfirst : SameLink (({ s with pend := [] } : State).perform e)
      (({ s.takeInput.2 with pend := rest } : State).perform e) :=
    SameLink.perform (s := { s with pend := [] }) (t := { s.takeInput.2 with pend := rest }) s.takeInput_sameLink e
  rw [State.settle, State.settle, hpend, State.perform_pend]
  exact SameLink.performAll (t := { (({ s.takeInput.2 with pend := rest } : State).perform e) with pend := [] })
    hfirst rest

end

theorem State.settle_settle (s : State) : s.settle.settle = s.settle :=
  State.settle_idle (by rw [State.settle_eq])

theorem State.settle_rows (s : State) : s.settle.rows = s.rows := by
  rw [State.settle_eq]

theorem State.settle_pend (s : State) : s.settle.pend = [] := by
  rw [State.settle_eq]

/-! ## WRITE_REG (R101) -/

/-- Settles O11: `State.settle_sendFrame` gives the settled state whole. -/
theorem writeRegStoresAtItsAddress : Obligations.WriteRegStoresAtItsAddress := by
  intro address value s hrest
  refine ⟨s.sendFrame address value, rfl, ?_⟩
  rw [State.settle_sendFrame s address value hrest]
  refine ⟨?own, fun a ha => ?other, s.settle_rows, s.settle_sameGame⟩
  case own => rw [Memory.read_write, if_pos rfl]
  case other => rw [Memory.read_write, if_neg ha]

/-! ## DEV_INIT (R102, R246) -/

theorem frames_singleton (a v : Byte) : frames [(a, v)] = frame a v := by
  rw [frames, List.flatMap_singleton]

theorem State.performAll_frames_sh (s : State) (h : s.cs = true) (ps : List (Byte × Byte)) (a v : Byte) :
    (s.performAll (frames (ps ++ [(a, v)]))).sh = frameWord a v := by
  obtain ⟨-, hcs⟩ := State.performAll_frames_dev ps s h
  rw [frames_append, State.performAll_append, frames_singleton, State.performAll_frame _ a v hcs]

theorem frameCalls_devInit_addresses {level : Byte} {s : State} {p : Byte × Byte}
    (h : p ∈ frameCalls (.devInit level) s) : (0x01#8 ≤ p.1 ∧ p.1 ≤ 0x0C#8) ∨ p.1 = 0x0F#8 := by
  have hlisted : ∀ a ∈ (frameCalls (.devInit level) s).map Prod.fst, (0x01#8 ≤ a ∧ a ≤ 0x0C#8) ∨ a = 0x0F#8 := by
    show ∀ a ∈ [0x09#8, 0x0B#8, 0x0C#8, 0x0F#8, 0x01#8, 0x02#8, 0x03#8, 0x04#8, 0x05#8, 0x06#8, 0x07#8, 0x08#8,
      0x0A#8], _
    decide
  exact hlisted p.1 (List.mem_map_of_mem h)

/-- Settles O13: the thirteen writes, read back one register at a time. -/
theorem deviceAfterDevInit : Obligations.DeviceAfterDevInit := by
  intro level s hrest
  have hexec := exec_devInit level s
  obtain ⟨hdev, -⟩ := settle_of_command rfl hexec hrest
  have hlink := ((exec_effect hexec).sameLink rfl).settle_emitted rfl
  refine ⟨_, hexec, ?_⟩
  rw [hdev]
  refine ⟨?_, ?_, ?_, ?_, ?_, fun r => ?row, ?sh, fun a hlow hhigh => ?other⟩
  case row => fin_cases r <;> simp [frameCalls, displayRows, rowAddress]
  case sh =>
    obtain ⟨-, -, -, hsh, -⟩ := hlink
    exact hsh.trans (State.performAll_frames_sh _ hrest _ _ _)
  case other =>
    refine Memory.read_writes_of_not_named (fun p hp => ?_) _
    rintro rfl
    exact (frameCalls_devInit_addresses hp).elim hlow hhigh
  all_goals simp [frameCalls, displayRows, rowAddress, intensityValue]

end Sys2Proof.Machine
end

section
/-! Invariants of the link: the chip select at rest (R105) and the mirror property (R12). Each is carried over the
five branches of `StepBranch`; what a command does to it is a lemma about the command. `InMirror` joins the mirror
property to the chip select at rest, without which a frame would store a stale pair before its own. -/

namespace Sys2Proof.Machine

/-! ## The chip select at rest (R105) -/

theorem takeSample_exec {i : StepInput} {s t : State} (h : takeSample i s = .next t) :
    t = s ∨ ∃ row col, exec (.playAt row col) (s.setWaiting false) = .next t := takeSample_cases h

/-- A reset raises CS, a drained event is one of those that settling performs, and a command only sends frames. -/
theorem RestsHigh.step {s t : State} (hrest : RestsHigh s) (hstep : step s = .next t) : RestsHigh t := by
  have hinput : RestsHigh s.takeInput.2 := hrest.congr s.takeInput_sameLink s.takeInput_pend
  cases step_branch hstep with
  | reset hrst ht => obtain rfl | rfl := ht <;> rfl
  | drain e rest hrst hpend ht =>
    obtain ⟨-, -, hcs, -, -⟩ := SameLink.settle_drained hpend
    rw [ht]
    exact hcs.trans hrest
  | sample hrst hpend hwait hsample =>
    obtain rfl | ⟨row, col, hplay⟩ := takeSample_exec hsample
    · exact hinput
    · have hplayed : RestsHigh (s.takeInput.2.setWaiting false) :=
        RestsHigh.congr (s := s.takeInput.2) ⟨rfl, rfl, rfl, rfl, rfl⟩ rfl hinput
      exact (settle_of_command rfl hplay hplayed).2
  | accept hrst hpend hwait hvalid hexec => exact (settle_of_command (isCommand_decodeCmd _) hexec hinput).2
  | idle hrst hpend hwait hvalid ht => rwa [ht]

/-- Settles O45: CS is high at reset, and every step keeps it resting high. -/
theorem chipSelectRestsHigh : Obligations.ChipSelectRestsHigh := ⟨rfl, fun _ _ => RestsHigh.step⟩

/-! ## The mirror property (R12) -/

/-- The mirror property of a state whose chip select rests high. -/
def InMirror (s : State) : Prop := RestsHigh s ∧ Mirrors s

section
variable {s t : State}

theorem InMirror.congr (hlink : SameLink s t) (hpend : t.pend = s.pend) (hrows : t.rows = s.rows) (h : InMirror s) :
    InMirror t := by
  obtain ⟨hrest, hmirror⟩ := h
  obtain ⟨-, -, -, -, hdev⟩ := hlink.settle hpend
  refine ⟨hrest.congr hlink hpend, fun r => ?_⟩
  rw [hdev, hmirror, State.row, State.row, hrows]

theorem State.settle_sendFrame_dev (a v : Byte) (hrest : RestsHigh s) :
    (s.sendFrame a v).settle.dev = s.settle.dev.write a v ∧ RestsHigh (s.sendFrame a v) := by
  rw [RestsHigh, State.settle_sendFrame s a v hrest]
  exact ⟨rfl, hrest⟩

/-- A frame to another register than the eight rows leaves the mirror. -/
theorem InMirror.sendFrame (h : InMirror s) {a : Byte} (ha : ∀ r, rowAddress r ≠ a) (v : Byte) :
    InMirror (s.sendFrame a v) := by
  obtain ⟨hrest, hmirror⟩ := h
  obtain ⟨hdev, hrest'⟩ := State.settle_sendFrame_dev a v hrest
  refine ⟨hrest', fun r => ?_⟩
  rw [hdev, Memory.read_write, if_neg (ha r), hmirror, State.sendFrame_row]

/-- A row that is written is sent, so that the device takes the same byte (R121). -/
theorem InMirror.sendRow (h : InMirror s) (r : Fin 8) (v : Byte) : InMirror (s.sendRow r v) := by
  obtain ⟨hrest, hmirror⟩ := h
  have hlink : SameLink s (s.putRow r v) := ⟨rfl, rfl, rfl, rfl, rfl⟩
  obtain ⟨-, -, -, -, hput⟩ := hlink.settle rfl
  obtain ⟨hdev, hrest'⟩ := State.settle_sendFrame_dev (rowAddress r) v (hrest.congr hlink rfl)
  refine ⟨hrest', fun r' => ?_⟩
  rw [State.sendRow_row, State.sendRow, hdev, hput, Memory.read_write, hmirror]
  by_cases hr : r' = r
  · rw [if_pos hr, if_pos (congrArg rowAddress hr)]
  · rw [if_neg hr, if_neg fun ha => hr (rowAddress_inj ha)]

theorem InMirror.lightPixels (h : InMirror s) (ps : List (Fin 8 × Fin 8)) :
    InMirror (ps.foldl (fun t p => t.setPixelAt p.1 p.2 true) s) := by
  induction ps generalizing s with
  | nil => exact h
  | cons p ps ih =>
    rw [List.foldl_cons, State.setPixelAt_eq]
    exact ih (h.sendRow _ _)

theorem InMirror.clearRows (h : InMirror s) : InMirror s.clearRows :=
  List.foldlRecOn displayRows _ h fun _ ht r _ => ht.sendRow r 0x00#8

theorem InMirror.acceptMove (h : InMirror s) (i j : Fin 3) : InMirror (s.acceptMove i j) := by
  have hplaced : InMirror (s.putCell (boardIndex i j) s.nextPlayer.mark).countMove.evaluate :=
    InMirror.congr (s := s) ⟨rfl, rfl, rfl, rfl, rfl⟩ rfl rfl h
  exact hplaced.lightPixels _

theorem InMirror.setRowAt (h : InMirror s) (row value : Byte) : InMirror (s.setRowAt row value) := by
  unfold State.setRowAt
  split
  · exact h.sendRow _ _
  · exact h

/-- The row registers are those that `rawRowWrite` forbids WRITE_REG (R254). -/
theorem rowAddress_ne_of_not_raw {a v : Byte} (h : ¬ rawRowWrite (.writeReg a v)) (r : Fin 8) : rowAddress r ≠ a := by
  have hrow : ∀ r : Fin 8, 0x01#8 ≤ rowAddress r ∧ rowAddress r ≤ 0x08#8 := by decide
  rintro rfl
  exact h (hrow r)

theorem InMirror.devInit (h : InMirror s) {level : Byte} (hexec : exec (.devInit level) s = .next t) : InMirror t := by
  cases hexec
  refine InMirror.sendFrame (InMirror.clearRows ?_) (by decide) _
  exact (((h.sendFrame (by decide) _).sendFrame (by decide) _).sendFrame (by decide) _).sendFrame (by decide) _

/-- Every command but a raw row write keeps the mirror. -/
theorem InMirror.exec {i : Instr} (h : InMirror s) (hi : isCommand i = true) (hraw : ¬ rawRowWrite i)
    (hexec : exec i s = .next t) : InMirror t := by
  cases i with
  | playAt row col =>
    obtain rfl | ⟨i, j, -, -, -, -, rfl⟩ := execPlayAt_cases hexec
    · exact h
    · exact h.acceptMove i j
  | writeReg a v =>
    cases hexec
    exact h.sendFrame (rowAddress_ne_of_not_raw hraw) v
  | devInit level => exact h.devInit hexec
  | setPixel row col on =>
    obtain rfl | ⟨r, c, rfl⟩ := execSetPixel_cases hexec
    · exact h
    · exact h.sendRow r _
  | setRow row value =>
    cases hexec
    exact h.setRowAt row value
  | clear =>
    cases hexec
    exact h.clearRows
  | nop | gameInit | evaluate | awaitMove | reservedA | reservedB | reservedC | reservedD | reservedE | reservedF =>
    cases hexec
    exact InMirror.congr (s := s) ⟨rfl, rfl, rfl, rfl, rfl⟩ rfl rfl h
  | _ => cases hi

end

/-- Settles O43: draining changes neither the rows nor what the device comes to hold; a command keeps the mirror. -/
theorem everyStepKeepsTheMirror : Obligations.EveryStepKeepsTheMirror := by
  intro s t hrest hmirror hrst hraw hstep
  have hinput : InMirror s.takeInput.2 :=
    InMirror.congr s.takeInput_sameLink s.takeInput_pend s.takeInput_rows ⟨hrest, hmirror⟩
  have hin : InMirror t := by
    cases step_branch hstep with
    | reset hrst' ht => rw [hrst] at hrst'; cases hrst'
    | drain e rest _ hpend ht =>
      obtain ⟨-, -, hcs, -, hdev⟩ := SameLink.settle_drained hpend
      rw [ht]
      refine ⟨hcs.trans hrest, fun r => ?_⟩
      rw [hdev, hmirror, State.row, State.row, State.perform_rows, State.takeInput_rows]
    | sample _ hpend hwait hsample =>
      obtain rfl | ⟨row, col, hplay⟩ := takeSample_exec hsample
      · exact hinput
      · have hplayed : InMirror (s.takeInput.2.setWaiting false) :=
          InMirror.congr (s := s.takeInput.2) ⟨rfl, rfl, rfl, rfl, rfl⟩ rfl rfl hinput
        exact hplayed.exec rfl id hplay
    | accept _ hpend hwait hvalid hexec =>
      exact hinput.exec (isCommand_decodeCmd _) (hraw _ (acceptedCommand?_of_accept hrst hpend hwait hvalid)) hexec
    | idle _ hpend hwait hvalid ht => rwa [ht]
  exact hin.2

/-- Settles O44: every row of the cache is 0, and so is every row register. -/
theorem devInitEstablishesTheMirror : Obligations.DevInitEstablishesTheMirror := by
  intro level s hrest
  have hexec := exec_devInit level s
  obtain ⟨-, hrest'⟩ := settle_of_command rfl hexec hrest
  obtain ⟨t, ht, -, -, -, -, -, hdark, -, -⟩ := deviceAfterDevInit level s hrest
  rw [hexec] at ht
  cases ht
  refine ⟨_, hexec, fun r => ?_, hrest'⟩
  rw [hdark, State.row]
  simp

end Sys2Proof.Machine
end

section
/-! SET_FRAME on the link (R83, R123). What the device receives follows by induction over the run of SET_ROW commands,
and so does the comparison with the machine: each of the eight words is accepted in one step and its frame drained in
51. -/

namespace Sys2Proof.Machine

/-! ## What the device receives -/

theorem RestsHigh.settle {s : State} (h : RestsHigh s) : RestsHigh s.settle := by
  rw [RestsHigh, State.settle_settle]
  exact h

theorem State.settle_setRowAt_dev {s : State} (hrest : RestsHigh s) {row : Byte} (hrow : row.toNat < 8) (value : Byte) :
    (s.setRowAt row value).settle.dev = s.settle.dev.write (0x01#8 + row) value ∧ RestsHigh (s.setRowAt row value) := by
  have hframe : (s.setRowAt row value).pend = s.pend ++ frames [(0x01#8 + row, value)] := by
    rw [State.setRowAt_of_in_range (r := ⟨row.toNat, hrow⟩) rfl, frames_singleton,
      ← rowAddress_of_byte (r := ⟨row.toNat, hrow⟩) rfl]
    rfl
  obtain ⟨es, h⟩ := State.setRowAt_eq s row value
  have hlink : SameLink s (s.setRowAt row value) := by
    rw [h]
    exact ⟨rfl, rfl, rfl, rfl, rfl⟩
  exact settle_of_sends hlink hframe hrest

/-- A run of SET_ROW commands writes the row registers in its order. -/
theorem State.settle_runSetRows_dev {ps : List (Byte × Byte)} (hrows : ∀ p ∈ ps, p.1.toNat < 8) {s : State}
    (hrest : RestsHigh s) :
    (s.runSetRows ps).settle.dev =
      (ps.map fun p => (0x01#8 + p.1, p.2)).foldl (fun m p => m.write p.1 p.2) s.settle.dev := by
  induction ps generalizing s with
  | nil => rfl
  | cons p ps ih =>
    obtain ⟨hp, hps⟩ := List.forall_mem_cons.1 hrows
    obtain ⟨hdev, hrest'⟩ := State.settle_setRowAt_dev hrest.settle hp p.2
    rw [State.settle_settle] at hdev
    rw [List.map_cons, List.foldl_cons, ← hdev]
    exact ih hps hrest'

/-- After a SET_ROW that waited for what was pending, its own frame is all that is pending. -/
theorem State.thenSetRow_pend (s : State) {row : Byte} (hrow : row.toNat < 8) (value : Byte) :
    (s.thenSetRow row value).pend = frame (0x01#8 + row) value := by
  rw [State.thenSetRow, State.setRowAt_of_in_range (r := ⟨row.toNat, hrow⟩) rfl, State.sendRow, State.sendFrame_pend,
    State.putRow_pend, State.settle_pend, List.nil_append, rowAddress_of_byte rfl]

theorem State.runSetRows_concat_pend (s : State) (ps : List (Byte × Byte)) {row : Byte} (hrow : row.toNat < 8)
    (value : Byte) : (s.runSetRows (ps ++ [(row, value)])).pend = frame (0x01#8 + row) value := by
  rw [State.runSetRows, List.foldl_concat]
  exact State.thenSetRow_pend _ hrow value

/-- What SET_FRAME leaves pending, and the eight frames it calls as writes of the device (R123, R200). -/
theorem exec_setFrame_delivers (v0 v1 v2 v3 v4 v5 v6 v7 : Byte) {s : State} (hrest : RestsHigh s) :
    ∃ t, exec (.setFrame v0 v1 v2 v3 v4 v5 v6 v7) s = .next t ∧ t.pend = frame 0x08 v7 ∧
      t.settle.dev =
        (frameCalls (.setFrame v0 v1 v2 v3 v4 v5 v6 v7) s).foldl (fun m p => m.write p.1 p.2) s.settle.dev := by
  obtain ⟨hfirst, hrest'⟩ := State.settle_setRowAt_dev hrest (row := 0) (by decide) v0
  have hdev := State.settle_runSetRows_dev (ps := [(1, v1), (2, v2), (3, v3), (4, v4), (5, v5), (6, v6), (7, v7)])
    (by simp) hrest'
  rw [hfirst] at hdev
  exact ⟨_, exec_setFrame v0 v1 v2 v3 v4 v5 v6 v7 s,
    State.runSetRows_concat_pend _ [(1, v1), (2, v2), (3, v3), (4, v4), (5, v5), (6, v6)] (by decide) v7, hdev⟩

theorem frameCalls_setFrame_addresses {v0 v1 v2 v3 v4 v5 v6 v7 : Byte} {s : State} {p : Byte × Byte}
    (h : p ∈ frameCalls (.setFrame v0 v1 v2 v3 v4 v5 v6 v7) s) : 0x01#8 ≤ p.1 ∧ p.1 ≤ 0x08#8 := by
  have hlisted : ∀ a ∈ (frameCalls (.setFrame v0 v1 v2 v3 v4 v5 v6 v7) s).map Prod.fst, 0x01#8 ≤ a ∧ a ≤ 0x08#8 := by
    show ∀ a ∈ [0x01#8, 0x02#8, 0x03#8, 0x04#8, 0x05#8, 0x06#8, 0x07#8, 0x08#8], _
    decide
  exact hlisted p.1 (List.mem_map_of_mem h)

/-- Settles O20: eight writes, one to each row register; `ExecEffect` says what SET_FRAME leaves alone. -/
theorem setFrameDeliversItsRows : Obligations.SetFrameDeliversItsRows := by
  intro v0 v1 v2 v3 v4 v5 v6 v7 s hrest
  obtain ⟨t, hexec, hpend, hdev⟩ := exec_setFrame_delivers v0 v1 v2 v3 v4 v5 v6 v7 hrest
  have heffect := exec_effect hexec
  refine ⟨t, hexec, hpend, fun r => ?rows, fun a ha => ?others, heffect.sameGame ?_ ?_ ?_, heffect.waiting ?_,
    heffect.sameInputs⟩
  case rows =>
    rw [hdev]
    fin_cases r <;> simp [frameCalls, rowAddress]
  case others =>
    rw [hdev]
    refine Memory.read_writes_of_not_named (fun p hp => ?_) _
    rintro rfl
    exact ha (frameCalls_setFrame_addresses hp)
  all_goals simp

end Sys2Proof.Machine
end

section
/-! SET_FRAME against the machine (R83, R196). The host offers each word for 52 steps. From the acceptance of one
word, 51 steps drain its frame and the next one accepts the next word; by induction over the words the machine is then
where the meaning of SET_FRAME is. No SET_ROW and no event looks at the inputs, so these can be set last:
`State.withInputs`. -/

namespace Sys2Proof.Machine

/-! ## Operations that do not look at the inputs -/

/-- The same state with other inputs to come. -/
def State.withInputs (s : State) (q : List StepInput) : State := { s with inputs := q }

theorem State.settle_withInputs (s : State) (q : List StepInput) :
    (s.withInputs q).settle = s.settle.withInputs q := by
  have h (q : List StepInput) :
      (s.withInputs q).settle = { s.performAll s.pend with pend := [], inputs := q } :=
    State.performAll_with s s.pend [] q
  rw [h q, show s.settle = _ from h s.inputs]
  rfl

theorem State.setRowAt_withInputs (s : State) (q : List StepInput) (row value : Byte) :
    (s.withInputs q).setRowAt row value = (s.setRowAt row value).withInputs q := by
  unfold State.setRowAt
  cases displayIndex? row <;> rfl

theorem State.runSetRows_withInputs (ps : List (Byte × Byte)) (s : State) (q : List StepInput) :
    (s.withInputs q).runSetRows ps = (s.runSetRows ps).withInputs q := by
  induction ps generalizing s with
  | nil => rfl
  | cons p ps ih =>
    have hfirst : (s.withInputs q).thenSetRow p.1 p.2 = (s.thenSetRow p.1 p.2).withInputs q := by
      rw [State.thenSetRow, State.settle_withInputs, State.setRowAt_withInputs]
      rfl
    rw [State.runSetRows, List.foldl_cons, hfirst]
    exact ih _

/-! ## One word -/

/-- The word of SET_ROW (R75), of a row and a value. -/
def setRowWord (p : Byte × Byte) : CmdWord := cmdWord 0x4 0 p.1 p.2

/-- The state right after a SET_ROW is accepted: its frame is pending, and no AWAIT_MOVE waits. -/
def Sending (s : State) : Prop := s.pend.length = 51 ∧ s.waiting = false

theorem step_accepts_setRow {s : State} (hidle : Idle s) (p : Byte × Byte) (q : List StepInput) :
    step (s.withInputs (offer (setRowWord p) :: q)) = .next ((s.setRowAt p.1 p.2).withInputs q) := by
  have hstep := stepRunsTheAcceptedCommand (s.withInputs (offer (setRowWord p) :: q)) (offer (setRowWord p)) q
    rfl rfl rfl hidle
  rw [hstep, ← State.setRowAt_withInputs]
  show exec (decodeCmd (cmdWord 0x4 0 p.1 p.2)) (s.withInputs q) = _
  rw [decodeCmd_setRow]
  rfl

theorem Sending.setRowAt {s : State} (hidle : Idle s) {p : Byte × Byte} (hp : p.1.toNat < 8) :
    Sending (s.setRowAt p.1 p.2) := by
  obtain ⟨hpend, hwait⟩ := hidle
  obtain ⟨-, hwait', -⟩ := s.setRowAt_sameControl p.1 p.2
  refine ⟨?_, hwait'.trans hwait⟩
  rw [State.setRowAt_of_in_range (r := ⟨p.1.toNat, hp⟩) rfl, State.sendRow, State.sendFrame_pend, State.putRow_pend,
    hpend, List.nil_append, frame_length]

theorem Sending.settle_idle {s : State} (h : Sending s) : Idle s.settle := by
  obtain ⟨-, hwait⟩ := h
  obtain ⟨-, hwait', -⟩ := s.settle_sameControl
  exact ⟨s.settle_pend, hwait'.trans hwait⟩

/-- 51 steps perform the events of the word accepted, whatever is offered meanwhile (R191, R196). -/
theorem Sending.drains {s : State} (h : Sending s) (w : CmdWord) (q : List StepInput) :
    runSteps 51 (s.withInputs (List.replicate 51 (offer w) ++ q)) = .next (s.settle.withInputs q) := by
  obtain ⟨hlength, -⟩ := h
  have hreset : NoReset 51 (s.withInputs (List.replicate 51 (offer w) ++ q)) := by
    refine ⟨by simp [State.withInputs], fun i hi => ?_⟩
    rw [State.withInputs, List.take_left' List.length_replicate] at hi
    rw [List.eq_of_mem_replicate hi]
    rfl
  have hrun := pendingEventsDrainOneAStep (s.withInputs (List.replicate 51 (offer w) ++ q))
  rw [show (s.withInputs (List.replicate 51 (offer w) ++ q)).pend.length = 51 from hlength] at hrun
  rw [hrun hreset, State.settle_withInputs]
  show Host.Outcome.next (s.settle.withInputs ((List.replicate 51 (offer w) ++ q).drop 51)) = _
  rw [List.drop_left' List.length_replicate]

/-- From one acceptance to the next: 51 steps that drain and one that accepts. -/
theorem Sending.accepts_next {s : State} (h : Sending s) (w : CmdWord) (p : Byte × Byte) (q : List StepInput) :
    runSteps 52 (s.withInputs (List.replicate 51 (offer w) ++ (offer (setRowWord p) :: q))) =
      .next ((s.thenSetRow p.1 p.2).withInputs q) := by
  rw [runSteps_add 1 (h.drains w _), runSteps_next 0 (step_accepts_setRow h.settle_idle p q)]
  rfl

/-! ## All words -/

/-- From the acceptance of one word to that of the last: what is left of the inputs are the other 51 offers of the last
word and what stood behind. -/
theorem Sending.runs_setRows {ps : List (Byte × Byte)} (hrows : ∀ p ∈ ps, p.1.toNat < 8) {s : State} (h : Sending s)
    (p₀ : Byte × Byte) (rest : List StepInput) :
    runSteps (52 * ps.length)
        (s.withInputs (List.replicate 51 (offer (setRowWord p₀)) ++ (offersOfRows (ps.map setRowWord) ++ rest))) =
      .next ((s.runSetRows ps).withInputs
        (List.replicate 51 (offer (setRowWord ((p₀ :: ps).getLast (List.cons_ne_nil p₀ ps)))) ++ rest)) := by
  induction ps generalizing s p₀ with
  | nil => rfl
  | cons p ps ih =>
    obtain ⟨hp, hps⟩ := List.forall_mem_cons.1 hrows
    have hinputs : offersOfRows ((p :: ps).map setRowWord) ++ rest = offer (setRowWord p) ::
        (List.replicate 51 (offer (setRowWord p)) ++ (offersOfRows (ps.map setRowWord) ++ rest)) := by
      rw [List.map_cons, offersOfRows, List.flatMap_cons, List.append_assoc]
      rfl
    rw [List.length_cons, Nat.mul_succ, Nat.add_comm, hinputs, runSteps_add _ (h.accepts_next _ p _)]
    exact ih hps (Sending.setRowAt h.settle_idle hp) p

/-- Settles O21: one step accepts the first word, and 52 steps lead from each acceptance to the next. -/
theorem setFrameIsItsEightCommands : Obligations.SetFrameIsItsEightCommands := by
  intro v0 v1 v2 v3 v4 v5 v6 v7 rest s hidle
  have hsending : Sending (s.setRowAt 0 v0) := Sending.setRowAt hidle (p := (0, v0)) (Nat.zero_lt_succ 7)
  have hrun := hsending.runs_setRows (ps := [(1, v1), (2, v2), (3, v3), (4, v4), (5, v5), (6, v6), (7, v7)]) (by simp)
    (0, v0) rest
  have hmeaning := exec_setFrame v0 v1 v2 v3 v4 v5 v6 v7
    (s.withInputs (List.replicate 51 (offer (setRowWord (7, v7))) ++ rest))
  rw [State.setRowAt_withInputs, State.runSetRows_withInputs] at hmeaning
  exact ((runSteps_next 364 (step_accepts_setRow hidle (0, v0) _)).trans hrun).trans hmeaning.symm

end Sys2Proof.Machine
end

section
/-! Invariants of the control and of the device memory (R191, R194; log entry 4), over the five branches of a step. -/

namespace Sys2Proof.Machine

/-! ## The canonical form of the device memory -/

theorem State.perform_wf {s : State} (h : s.dev.wf) (e : LineEvent) : (s.perform e).dev.wf := by
  rw [State.perform_dev]
  split
  · exact Memory.write_wf h _ _
  · exact h

theorem SameLink.wf {s t : State} (hlink : SameLink s t) (h : s.dev.wf) : t.dev.wf := by
  obtain ⟨-, -, -, -, hdev⟩ := hlink
  rwa [hdev]

/-- Settles O56: the device changes by a latch alone, which is one write. -/
theorem everyStepKeepsTheDeviceMemoryCanonical : Obligations.EveryStepKeepsTheDeviceMemoryCanonical := by
  refine ⟨reset_dev_wf, fun s t hwf hstep => ?_⟩
  have hinput : s.takeInput.2.dev.wf := s.takeInput_sameLink.wf hwf
  cases step_branch hstep with
  | reset hrst ht =>
    obtain rfl | rfl := ht
    · exact hinput
    · exact State.latchPair_wf (s := s.takeInput.2.resetBlock) hinput _ _
  | drain e rest hrst hpend ht =>
    rw [ht]
    exact State.perform_wf (s := { s.takeInput.2 with pend := rest }) hinput e
  | sample hrst hpend hwait hsample =>
    obtain rfl | ⟨row, col, hplay⟩ := takeSample_exec hsample
    · exact hinput
    · exact ((exec_effect hplay).sameLink rfl).wf hinput
  | accept hrst hpend hwait hvalid hexec => exact ((exec_effect hexec).sameLink (isCommand_decodeCmd _)).wf hinput
  | idle hrst hpend hwait hvalid ht => rwa [ht]

/-! ## Nothing pending in a wait -/

theorem pend_of_exec_starting_wait {s t : State} {i : Instr} (hexec : exec i s = .next t) (hbefore : s.waiting = false)
    (hafter : t.waiting = true) : t.pend = s.pend := by
  by_cases hawait : i = .awaitMove
  · subst hawait
    cases hexec
    rfl
  · rw [(exec_effect hexec).waiting hawait, hbefore] at hafter
    cases hafter

/-- Settles O57: a block that drains is not waiting, a sample that is played ends the wait, and AWAIT_MOVE, which alone
starts one, is accepted only with nothing pending. -/
theorem waitingBlockHasNothingPending : Obligations.WaitingBlockHasNothingPending := by
  refine ⟨fun _ => rfl, fun s t hinv hstep hwaiting => ?_⟩
  cases step_branch hstep with
  | reset hrst ht => obtain rfl | rfl := ht <;> rfl
  | drain e rest hrst hpend ht =>
    have hwait : s.waiting = true := by simpa [ht] using hwaiting
    rw [hinv hwait] at hpend
    cases hpend
  | sample hrst hpend hwait hsample =>
    obtain rfl | ⟨row, col, hplay⟩ := takeSample_exec hsample
    · rw [State.takeInput_pend, hpend]
    · rw [(exec_effect hplay).waiting (by simp)] at hwaiting
      cases hwaiting
  | accept hrst hpend hwait hvalid hexec =>
    rw [pend_of_exec_starting_wait hexec (by rw [State.takeInput_waiting, hwait]) hwaiting, State.takeInput_pend, hpend]
  | idle hrst hpend hwait hvalid ht => rw [ht, State.takeInput_pend, hpend]

end Sys2Proof.Machine
end

section
/-! The invariants of the game (R22). The counts follow the one cell that a move fills. The lines rest on two facts: a
move gives a line to nobody but the player who makes it, and a line takes three marks. So after a move there is at
most one winner, and the evaluation of the board finds him. -/

namespace Sys2Proof.Machine

/-! ## Counting marks -/

theorem cellCount_eq_card (cells : Vector Cell 9) (c : Cell) :
    cellCount cells c = (Finset.univ.filter fun k : Fin 9 => cells[k] = c).card :=
  (Fin.card_filter_univ_eq_vector_get_eq_count c ⟨cells.toList, Vector.length_toList⟩).symm

theorem boardLines_distinct : ∀ l ∈ boardLines, l.1 ≠ l.2.1 ∧ l.1 ≠ l.2.2 ∧ l.2.1 ≠ l.2.2 := by
  simp [boardLines]

/-- A line takes three marks (R144). -/
theorem HasLine.three_le_cellCount {cells : Vector Cell 9} {p : Player} (h : HasLine cells p) :
    3 ≤ cellCount cells p.mark := by
  obtain ⟨l, hl, h1, h2, h3⟩ := h
  obtain ⟨h12, h13, h23⟩ := boardLines_distinct l hl
  rw [cellCount_eq_card, ← Finset.card_eq_three.2 ⟨l.1, l.2.1, l.2.2, h12, h13, h23, rfl⟩]
  refine Finset.card_le_card fun k hk => ?_
  simp only [Finset.mem_insert, Finset.mem_singleton] at hk
  rw [Finset.mem_filter]
  refine ⟨Finset.mem_univ k, ?_⟩
  obtain rfl | rfl | rfl := hk
  · exact h1
  · exact h2
  · exact h3

/-- Filling an Empty cell: one Empty cell fewer, one mark more, and the other marks as before. -/
theorem cellCount_set {cells : Vector Cell 9} {k : Fin 9} (hk : cells[k] = .empty) {c : Cell} (hc : c ≠ .empty)
    (d : Cell) :
    cellCount (cells.set k c) d + (if d = .empty then 1 else 0) = cellCount cells d + (if d = c then 1 else 0) := by
  have hk' : cells[k.val] = .empty := hk
  have hone : 0 < cellCount cells .empty := by
    rw [cellCount_eq_card, Finset.card_pos]
    exact ⟨k, by simp [hk']⟩
  simp only [cellCount, Vector.count_toList] at hone ⊢
  rw [Vector.count_set]
  simp only [hk', beq_iff_eq]
  by_cases hd : d = .empty
  · subst hd
    simp only [if_true, hc, Ne.symm hc, if_false]
    omega
  · simp [hd, Ne.symm hd, eq_comm]

/-! ## Lines and the winner (R144, R145) -/

theorem Player.eq_other_of_ne : ∀ {p q : Player}, q ≠ p → q = p.other
  | .player1, .player2, _ | .player2, .player1, _ => rfl
  | .player1, .player1, h | .player2, .player2, h => absurd rfl h

theorem Player.other_ne (p : Player) : p.other ≠ p := by cases p <;> decide

theorem winner?_eq_some {cells : Vector Cell 9} {p : Player} (h : HasLine cells p) (hother : ¬ HasLine cells p.other) :
    winner? cells = some p := by
  cases hw : winner? cells with
  | none => exact absurd h ((winner?_eq_none cells).1 hw p)
  | some q =>
    have hq := winner?_hasLine hw
    have hqp : q = p := by_contra fun hne => hother (Player.eq_other_of_ne hne ▸ hq)
    rw [hqp]

/-- Settles O28: each outcome that the invariants allow is the one that the scan of the lines finds. -/
theorem evaluateChangesNothingInAGame : Obligations.EvaluateChangesNothingInAGame := by
  intro s h
  have hsame : evaluatedOutcome s.cells s.moves s.outcome = s.outcome := by
    by_cases hfew : s.moves < 5#4
    · exact evaluatedOutcome_early hfew
    cases hout : s.outcome with
    | inProgress =>
      obtain ⟨hnine, h1, h2⟩ := h.inProgressIsOpen hout
      rw [evaluatedOutcome_open hfew (winner?_eq_none_of_no_line h1 h2), if_neg (by bv_omega)]
    | player1Wins =>
      obtain ⟨h1, h2⟩ := h.player1Won hout
      exact evaluatedOutcome_win hfew (winner?_eq_some h1 h2)
    | player2Wins =>
      obtain ⟨h2, h1⟩ := h.player2Won hout
      exact evaluatedOutcome_win hfew (winner?_eq_some h2 h1)
    | draw =>
      obtain ⟨hnine, h1, h2⟩ := h.drawIsFull hout
      rw [evaluatedOutcome_open hfew (winner?_eq_none_of_no_line h1 h2), if_pos hnine]
  show Host.Outcome.next s.evaluate = .next s
  rw [State.evaluate, hsame]

/-! ## One move keeps the invariants -/

/-- One accepted move, with OUTCOME evaluated on the board and the count it leaves (R142). -/
def EvaluatedMove (s t : State) : Prop := OneMove s t ∧ t.outcome = evaluatedOutcome t.cells t.moves s.outcome

section
variable {s t : State}

/-- A move fills one cell with the mark of the player who makes it. -/
theorem OneMove.cells (h : OneMove s t) :
    ∃ k : Fin 9, s.cell k = .empty ∧ t.cells = s.cells.set k s.nextPlayer.mark := by
  obtain ⟨-, -, -, k, hfree, hplaced, hkept⟩ := h
  refine ⟨k, hfree, cells_ext (s := s.putCell k s.nextPlayer.mark) fun k' => ?_⟩
  rw [State.cell_putCell]
  split
  case isTrue heq => rw [heq, hplaced]
  case isFalse hne => exact hkept k' hne

/-- A move gives no line to the other player. -/
theorem OneMove.hasLine_of_ne (h : OneMove s t) {p : Player} (hp : p ≠ s.nextPlayer) (hline : HasLine t.cells p) :
    HasLine s.cells p := by
  obtain ⟨-, -, -, k, -, hplaced, hkept⟩ := h
  have hback (x : Fin 9) (hx : t.cell x = p.mark) : s.cell x = p.mark := by
    by_cases hxk : x = k
    · subst hxk
      exact absurd (Player.mark_inj (hx.symm.trans hplaced)) hp
    · rw [← hkept x hxk, hx]
  obtain ⟨l, hl, h1, h2, h3⟩ := hline
  exact ⟨l, hl, hback _ h1, hback _ h2, hback _ h3⟩

/-- The counts, and the turn, after a move: I5, I6 and I7. -/
theorem GameInv.oneMove_counts (hinv : GameInv s) (h : OneMove s t) :
    t.moves.toNat + cellCount t.cells .empty = 9 ∧
      (t.nextPlayer = .player1 ↔ t.moves.toNat % 2 = 0) ∧ cellCount t.cells .player1 = (t.moves.toNat + 1) / 2 ∧
      cellCount t.cells .player2 = t.moves.toNat / 2 := by
  obtain ⟨k, hfree, hcells⟩ := h.cells
  obtain ⟨hopen, hmoves, hnext, -⟩ := h
  obtain ⟨hnine, -, -⟩ := hinv.inProgressIsOpen hopen
  have hcount : t.moves.toNat = s.moves.toNat + 1 := by bv_omega
  have hempty := cellCount_set hfree s.nextPlayer.mark_ne_empty .empty
  have hplayer1 := cellCount_set hfree s.nextPlayer.mark_ne_empty .player1
  have hplayer2 := cellCount_set hfree s.nextPlayer.mark_ne_empty .player2
  have hsum := hinv.movesCountMarks
  have hturn := hinv.turnByParity
  have hmarks1 := hinv.player1Marks
  have hmarks2 := hinv.player2Marks
  rw [← hcells] at hempty hplayer1 hplayer2
  rw [hnext, hcount]
  cases hp : s.nextPlayer <;> simp [hp, Player.mark, Player.other] at hempty hplayer1 hplayer2 hturn ⊢ <;> omega

/-- Fewer than five moves leave nobody with three marks. -/
theorem no_line_of_few_moves (hplayer1 : cellCount t.cells .player1 = (t.moves.toNat + 1) / 2)
    (hplayer2 : cellCount t.cells .player2 = t.moves.toNat / 2) (hfew : t.moves < 5#4) (p : Player) :
    ¬ HasLine t.cells p := by
  intro hline
  have hthree := hline.three_le_cellCount
  have hfew' : t.moves.toNat < 5 := hfew
  cases p with
  | player1 => rw [show Player.player1.mark = .player1 from rfl] at hthree; omega
  | player2 => rw [show Player.player2.mark = .player2 from rfl] at hthree; omega

/-- What the evaluation of a move finds: the game goes on, it is full, or the player who moved has won. -/
theorem GameInv.evaluatedMove_outcome (hinv : GameInv s) (h : EvaluatedMove s t) :
    (t.outcome = .inProgress ∧ t.moves < 9#4 ∧ ∀ p, ¬ HasLine t.cells p) ∨
      (t.outcome = .draw ∧ t.moves = 9#4 ∧ ∀ p, ¬ HasLine t.cells p) ∨
      (¬ t.moves < 5#4 ∧ ∃ p, t.outcome = p.wins ∧ HasLine t.cells p ∧ ¬ HasLine t.cells p.other) := by
  obtain ⟨hmove, hout⟩ := h
  obtain ⟨hsum, -, hplayer1, hplayer2⟩ := hinv.oneMove_counts hmove
  have hopen : s.outcome = .inProgress := hmove.1
  obtain ⟨-, h1, h2⟩ := hinv.inProgressIsOpen hopen
  have hbefore (p : Player) : ¬ HasLine s.cells p := by cases p <;> assumption
  have hmover (p : Player) (hline : HasLine t.cells p) : p = s.nextPlayer :=
    by_contra fun hp => hbefore p (hmove.hasLine_of_ne hp hline)
  rw [hopen] at hout
  by_cases hfew : t.moves < 5#4
  · rw [evaluatedOutcome_early hfew] at hout
    exact .inl ⟨hout, by bv_omega, no_line_of_few_moves hplayer1 hplayer2 hfew⟩
  by_cases hline : HasLine t.cells s.nextPlayer
  · have hother : ¬ HasLine t.cells s.nextPlayer.other := fun hline' => s.nextPlayer.other_ne (hmover _ hline')
    rw [evaluatedOutcome_win hfew (winner?_eq_some hline hother)] at hout
    exact .inr (.inr ⟨hfew, _, hout, hline, hother⟩)
  · have hnone (p : Player) : ¬ HasLine t.cells p := fun hline' => hline (hmover p hline' ▸ hline')
    rw [evaluatedOutcome_open hfew ((winner?_eq_none _).2 hnone)] at hout
    by_cases hnine : t.moves = 9#4
    · rw [if_pos hnine] at hout
      exact .inr (.inl ⟨hout, hnine, hnone⟩)
    · rw [if_neg hnine] at hout
      exact .inl ⟨hout, by bv_omega, hnone⟩

/-- A move that is accepted and evaluated keeps the invariants. -/
theorem GameInv.evaluatedMove (hinv : GameInv s) (h : EvaluatedMove s t) : GameInv t := by
  obtain ⟨hsum, hturn, hplayer1, hplayer2⟩ := hinv.oneMove_counts h.1
  have houtcome : (t.moves < 5#4 → t.outcome = .inProgress) ∧
      (t.outcome = .draw → t.moves = 9#4 ∧ ¬ HasLine t.cells .player1 ∧ ¬ HasLine t.cells .player2) ∧
      (t.outcome = .player1Wins → HasLine t.cells .player1 ∧ ¬ HasLine t.cells .player2) ∧
      (t.outcome = .player2Wins → HasLine t.cells .player2 ∧ ¬ HasLine t.cells .player1) ∧
      (t.outcome = .inProgress → t.moves < 9#4 ∧ ¬ HasLine t.cells .player1 ∧ ¬ HasLine t.cells .player2) := by
    obtain ⟨hout, hnine, hnone⟩ | ⟨hout, hnine, hnone⟩ | ⟨hfive, p, hout, hline, hother⟩ :=
      hinv.evaluatedMove_outcome h
    · simp [hout, hnine, hnone]
    · simp [hout, hnine, hnone]
    · cases p <;> simp_all [Player.wins, Player.other]
  obtain ⟨hearly, hdraw, hwon1, hwon2, hprogress⟩ := houtcome
  exact ⟨hearly, hsum, hturn, hplayer1, hplayer2, hdraw, hwon1, hwon2, hprogress⟩

end
end Sys2Proof.Machine
end

section
/-! The game over a step (R22). An instruction leaves the game alone, makes one evaluated move, or starts a new game,
and so does a step; the invariants are kept in each of the three. -/

namespace Sys2Proof.Machine

theorem SameGame.gameInv {s t : State} (hgame : SameGame s t) (h : GameInv s) : GameInv t := by
  obtain ⟨hcells, hmoves, hnext, hout⟩ := hgame
  constructor <;> simp only [hcells, hmoves, hnext, hout]
  exacts [h.earlyInProgress, h.movesCountMarks, h.turnByParity, h.player1Marks, h.player2Marks, h.drawIsFull,
    h.player1Won, h.player2Won, h.inProgressIsOpen]

/-- Settles O31: the reset state is literal. -/
theorem gameInvariantsHoldAtReset : Obligations.GameInvariantsHoldAtReset := by
  constructor <;> decide

/-- What an instruction can do to a game that meets the invariants. -/
theorem exec_game {i : Instr} {s t : State} (hinv : GameInv s) (hexec : exec i s = .next t) :
    SameGame s t ∨ ((∃ row col, i = .playAt row col) ∧ EvaluatedMove s t) ∨
      (i = .gameInit ∧ SameGame State.reset t) := by
  cases exec_effect hexec with
  | move row col i j hopen hfree =>
    exact .inr (.inl ⟨⟨row, col, rfl⟩, State.acceptMove_oneMove hopen hfree, s.acceptMove_outcome i j⟩)
  | newGame => exact .inr (.inr ⟨rfl, rfl, rfl, rfl, rfl⟩)
  | evaluate =>
    have hsame : s.evaluate = s := Host.Outcome.next.inj (evaluateChangesNothingInAGame s hinv)
    exact .inl ⟨rfl, rfl, rfl, congrArg State.outcome hsame⟩
  | run v0 v1 v2 v3 v4 v5 v6 v7 ht =>
    obtain ⟨hgame, -, -⟩ := ht
    exact .inl hgame
  | _ => exact .inl ⟨rfl, rfl, rfl, rfl⟩

/-- What a step can do to a game that meets the invariants, and what it must be doing then (I1, I2). -/
theorem step_game {s t : State} (hinv : GameInv s) (hstep : step s = .next t) :
    SameGame s t ∨ (EvaluatedMove s t ∧ TriesAMove s) ∨ (SameGame State.reset t ∧ StartsAGame s) := by
  cases step_branch hstep with
  | reset hrst ht => exact .inr (.inr ⟨by obtain rfl | rfl := ht <;> exact ⟨rfl, rfl, rfl, rfl⟩, .inl hrst⟩)
  | drain e rest hrst hpend ht =>
    rw [ht]
    exact .inl (s.takeInput_sameGame.trans (State.perform_sameGame { s.takeInput.2 with pend := rest } e))
  | sample hrst hpend hwait hsample =>
    rw [State.takeInput_eq] at hsample
    obtain hsame | ⟨-, hmove⟩ := takeSample_sameGame_or_oneMove hsample
    · exact .inl hsame
    · exact .inr (.inl ⟨hmove, .inr ⟨hrst, hpend, hwait⟩⟩)
  | accept hrst hpend hwait hvalid hexec =>
    have haccepted := acceptedCommand?_of_accept hrst hpend hwait hvalid
    have hinput : GameInv s.takeInput.2 := s.takeInput_sameGame.gameInv hinv
    rw [State.takeInput_eq] at hexec hinput
    obtain hsame | ⟨⟨row, col, hplay⟩, hmove⟩ | ⟨hinit, hnew⟩ := exec_game hinput hexec
    · exact .inl hsame
    · exact .inr (.inl ⟨hmove, .inl ⟨row, col, haccepted.trans (congrArg some hplay)⟩⟩)
    · exact .inr (.inr ⟨hnew, .inr (haccepted.trans (congrArg some hinit))⟩)
  | idle hrst hpend hwait hvalid ht =>
    rw [ht]
    exact .inl s.takeInput_sameGame

theorem isNewGame_of_sameGame_reset {t : State} (h : SameGame State.reset t) : IsNewGame t := by
  obtain ⟨hcells, hmoves, hnext, hout⟩ := h
  refine ⟨fun k => ?_, hmoves, hnext, hout⟩
  rw [State.cell, hcells]
  simp [State.reset]

/-- Settles O32: the three things a step can do to the game; the move needs a game in progress (I4). -/
theorem everyStepKeepsTheGameInvariants : Obligations.EveryStepKeepsTheGameInvariants := by
  intro s t hinv hstep
  obtain hsame | ⟨hmove, htries⟩ | ⟨hnew, hstarts⟩ := step_game hinv hstep
  · exact ⟨hsame.gameInv hinv, .inl hsame, fun _ => .inl hsame⟩
  · have hone : OneMove s t := hmove.1
    have hopen : s.outcome = .inProgress := hone.1
    exact ⟨hinv.evaluatedMove hmove, .inr (.inl ⟨hone, htries⟩), fun hover => absurd hopen hover⟩
  · have hisNew := isNewGame_of_sameGame_reset hnew
    exact ⟨hnew.gameInv gameInvariantsHoldAtReset, .inr (.inr ⟨hisNew, hstarts⟩), fun _ => .inr ⟨hisNew, hstarts⟩⟩

end Sys2Proof.Machine
end

section
/-! Rendering (R147, R148). A pixel of the board's picture is lit exactly when the mark of some cell lights it; so
placing a mark and lighting its pixels leaves the picture of the new board. -/

namespace Sys2Proof.Machine

/-! ## The picture of a board, pixel by pixel (R148) -/

/-- A mark lights pixels in its own block alone, and none in the third row of it (R147). -/
theorem block_of_mem_markPixels {m : Cell} {i j : Fin 3} {r c : Fin 8} (h : (r, c) ∈ markPixels m i j) :
    r.val / 3 = i.val ∧ r.val % 3 ≠ 2 := by
  cases m <;> revert i j r c <;> decide

/-- The table of R148 lists the pixels of R147. -/
theorem pictureByte_bit (m : Cell) {i : Fin 3} {r : Fin 8} (hblock : r.val / 3 = i.val) (hlit : r.val % 3 ≠ 2)
    (j : Fin 3) (c : Fin 8) :
    (pictureByte m (r.val % 3 == 0) j).getLsbD (7 - c.val) = true ↔ (r, c) ∈ markPixels m i j := by
  cases m <;> revert i r j c <;> decide

theorem pictureRow_bit (cells : Vector Cell 9) (r c : Fin 8) :
    (pictureRow cells r).getLsbD (7 - c.val) = true ↔
      ∃ i j : Fin 3, (r, c) ∈ markPixels cells[boardIndex i j] i j := by
  unfold pictureRow
  by_cases hdark : r.val % 3 = 2
  · rw [if_pos hdark]
    simp only [BitVec.getLsbD_zero, Bool.false_eq_true, false_iff]
    rintro ⟨i, j, hmem⟩
    obtain ⟨-, hlit⟩ := block_of_mem_markPixels hmem
    exact hlit hdark
  · have hblock : r.val / 3 = (⟨r.val / 3, by omega⟩ : Fin 3).val := rfl
    rw [if_neg hdark]
    simp only [BitVec.getLsbD_or, Bool.or_eq_true, pictureByte_bit _ hblock hdark]
    constructor
    · rintro ((h | h) | h)
      · exact ⟨_, 0, h⟩
      · exact ⟨_, 1, h⟩
      · exact ⟨_, 2, h⟩
    · rintro ⟨⟨n, hn⟩, j, hmem⟩
      obtain ⟨hblock, -⟩ := block_of_mem_markPixels hmem
      obtain rfl : r.val / 3 = n := hblock
      fin_cases j
      · exact .inl (.inl hmem)
      · exact .inl (.inr hmem)
      · exact .inr hmem

/-! ## Placing a mark -/

section
variable {s t : State}

theorem ShowsBoard.congr (hrows : t.rows = s.rows) (hcells : t.cells = s.cells) (h : ShowsBoard s) : ShowsBoard t := by
  intro r
  rw [State.row, hrows, hcells]
  exact h r

/-- An accepted move adds its mark to the picture (R148): no pixel of an Empty cell was lit before. -/
theorem ShowsBoard.acceptMove (h : ShowsBoard s) {i j : Fin 3} (hfree : s.cell (boardIndex i j) = .empty) :
    ShowsBoard (s.acceptMove i j) := by
  refine fun r => byte_ext fun c => Bool.eq_iff_iff.2 ?_
  rw [State.acceptMove_bit, pictureRow_bit, Bool.or_eq_true, decide_eq_true_iff, h r, pictureRow_bit]
  have hcell (i' j' : Fin 3) : (s.acceptMove i j).cells[boardIndex i' j'] =
      if boardIndex i' j' = boardIndex i j then s.nextPlayer.mark else s.cells[boardIndex i' j'] :=
    s.acceptMove_cell i j _
  constructor
  · rintro (hmem | ⟨i', j', hmem⟩)
    · exact ⟨i, j, by rwa [hcell, if_pos rfl]⟩
    · refine ⟨i', j', ?_⟩
      rw [hcell]
      split
      case isTrue heq =>
        obtain ⟨rfl, rfl⟩ := boardIndex_inj.1 heq
        rw [show s.cells[boardIndex i' j'] = .empty from hfree] at hmem
        exact absurd hmem List.not_mem_nil
      case isFalse => exact hmem
  · rintro ⟨i', j', hmem⟩
    rw [hcell] at hmem
    split at hmem
    case isTrue heq =>
      obtain ⟨rfl, rfl⟩ := boardIndex_inj.1 heq
      exact .inl hmem
    case isFalse => exact .inr ⟨i', j', hmem⟩

theorem ShowsBoard.playAt (h : ShowsBoard s) {row col : Byte} (hexec : exec (.playAt row col) s = .next t) :
    ShowsBoard t := by
  obtain rfl | ⟨i, j, -, -, -, hfree, rfl⟩ := execPlayAt_cases hexec
  · exact h
  · exact h.acceptMove hfree

/-- The commands a game is played with keep the picture. -/
theorem ShowsBoard.exec {i : Instr} (h : ShowsBoard s) (hplays : playsOnly i) (hexec : exec i s = .next t) :
    ShowsBoard t := by
  cases i with
  | playAt row col => exact h.playAt hexec
  | awaitMove | evaluate | nop =>
    cases hexec
    exact ShowsBoard.congr (s := s) rfl rfl h
  | _ => exact absurd hplays id

end

/-- Settles O33: reset blanks board and cache together, and of the other branches a move alone changes either. -/
theorem playingKeepsThePictureOfTheBoard : Obligations.PlayingKeepsThePictureOfTheBoard := by
  have hreset : ShowsBoard State.reset := by
    unfold ShowsBoard
    decide
  refine ⟨hreset, fun s t h hplays hstep => ?_⟩
  have hinput : ShowsBoard s.takeInput.2 := ShowsBoard.congr s.takeInput_rows s.takeInput_cells h
  cases step_branch hstep with
  | reset hrst ht => obtain rfl | rfl := ht <;> exact ShowsBoard.congr (s := State.reset) rfl rfl hreset
  | drain e rest hrst hpend ht =>
    obtain ⟨hcells, -, -, -⟩ := State.perform_sameGame { s.takeInput.2 with pend := rest } e
    rw [ht]
    exact ShowsBoard.congr (State.perform_rows _ e) hcells hinput
  | sample hrst hpend hwait hsample =>
    obtain rfl | ⟨row, col, hplay⟩ := takeSample_exec hsample
    · exact hinput
    · exact (ShowsBoard.congr (t := s.takeInput.2.setWaiting false) rfl rfl hinput).playAt hplay
  | accept hrst hpend hwait hvalid hexec =>
    exact hinput.exec (hplays _ (acceptedCommand?_of_accept hrst hpend hwait hvalid)) hexec
  | idle hrst hpend hwait hvalid ht => rwa [ht]

/-! ## The pixels and the frames of a move (R142, R147) -/

/-- Settles O24: an accepted PLAY_AT is `State.acceptMove`, read off part by part. -/
theorem acceptedPlayAtPlacesTheMark : Obligations.AcceptedPlayAtPlacesTheMark := by
  intro row col s i j hi hj hopen hfree
  obtain ⟨hdata, hclock, hcs, hsh, hdev⟩ := s.acceptMove_sameLink i j
  exact ⟨s.acceptMove i j, execPlayAt_accepts hi hj hopen hfree, s.acceptMove_cell i j, s.acceptMove_moves i j,
    s.acceptMove_nextPlayer i j, s.acceptMove_outcome i j, s.acceptMove_bit i j, ⟨hdata, hclock, hcs⟩,
    ⟨hsh, fun a => by rw [hdev]⟩, s.acceptMove_waiting i j, s.acceptMove_sameInputs i j⟩

/-- The two display rows of a block are different rows (R147). -/
theorem blockSecond_ne_blockFirst (i : Fin 3) : blockSecond i ≠ blockFirst i := by
  revert i
  decide

theorem rowAddress_blockFirst (i : Fin 3) : rowAddress (blockFirst i) = 0x01#8 + BitVec.ofNat 8 (3 * i.val) := rfl

theorem rowAddress_blockSecond (i : Fin 3) : rowAddress (blockSecond i) = 0x02#8 + BitVec.ofNat 8 (3 * i.val) := by
  revert i
  decide

theorem withPixel_blockFirst (v : Byte) (j : Fin 3) :
    withPixel v (blockFirst j) true = v ||| 0x80#8 >>> (3 * j.val) := rfl

theorem withPixel_blockSecond (v : Byte) (j : Fin 3) :
    withPixel v (blockSecond j) true = v ||| 0x40#8 >>> (3 * j.val) := by
  have hmask : columnMask (blockSecond j) = 0x40#8 >>> (3 * j.val) := by
    revert j
    decide
  rw [withPixel, if_pos rfl, hmask]

/-- The two columns of a block together (R148). -/
theorem or_block_columns (v : Byte) (j : Fin 3) :
    v ||| 0x80#8 >>> (3 * j.val) ||| 0x40#8 >>> (3 * j.val) = v ||| 0xC0#8 >>> (3 * j.val) := by
  have hmask : 0x80#8 >>> (3 * j.val) ||| 0x40#8 >>> (3 * j.val) = 0xC0#8 >>> (3 * j.val) := by
    revert j
    decide
  rw [BitVec.or_assoc, hmask]

/-- Settles O25: the frames of `pixelCalls`, pixel after pixel. -/
theorem acceptedPlayAtSendsTheMarksFrames : Obligations.AcceptedPlayAtSendsTheMarksFrames := by
  intro row col s i j hi hj hopen hfree
  refine ⟨s.acceptMove i j, execPlayAt_accepts hi hj hopen hfree, ?_⟩
  rw [State.acceptMove_pend]
  cases s.nextPlayer <;>
    simp only [Player.mark, markPixels, pixelCalls, State.setPixelAt_eq, State.sendRow_row_self,
      State.sendRow_row_of_ne _ (blockSecond_ne_blockFirst i), withPixel_blockFirst, withPixel_blockSecond,
      or_block_columns, rowAddress_blockFirst, rowAddress_blockSecond]

end Sys2Proof.Machine
end

section
/-! The traces of a run (R200). `latchedBy` lists the pairs that performing some events will write; of whole frames
they are the frames' own pairs. Over one step, what the step shows and what is then still pending come to what was
pending before and the calls of the step; over a run that ends with nothing pending that is the statement. -/

namespace Sys2Proof.Machine

/-! ## The pairs that events write (R47) -/

/-- The pairs the receiver writes while the events are performed from the state. -/
def latchedBy : State → List LineEvent → List (Byte × Byte)
  | _, [] => []
  | s, e :: es =>
    (if isLatchEdge s e then [(s.sh.extractLsb' 8 8, s.sh.extractLsb' 0 8)] else []) ++ latchedBy (s.perform e) es

theorem latchedBy_cons (s : State) (e : LineEvent) (es : List LineEvent) : latchedBy s (e :: es) =
    (if isLatchEdge s e then [(s.sh.extractLsb' 8 8, s.sh.extractLsb' 0 8)] else []) ++ latchedBy (s.perform e) es :=
  rfl

theorem latchedBy_append (s : State) (es fs : List LineEvent) :
    latchedBy s (es ++ fs) = latchedBy s es ++ latchedBy (s.performAll es) fs := by
  induction es generalizing s with
  | nil => rfl
  | cons e es ih =>
    rw [List.cons_append, latchedBy_cons, ih, ← List.append_assoc, latchedBy_cons, State.performAll_cons]

theorem SameLink.latchedBy {s t : State} (h : SameLink s t) (es : List LineEvent) :
    latchedBy t es = latchedBy s es := by
  induction es generalizing s t with
  | nil => rfl
  | cons e es ih =>
    have ⟨_, _, hcs, hsh, _⟩ := h
    rw [latchedBy_cons, latchedBy_cons, ih (h.perform e), isLatchEdge, isLatchEdge, hcs, hsh]

theorem isLatchEdge_of_not_cs (s : State) {e : LineEvent} (h : e.line ≠ .cs) : isLatchEdge s e = false := by
  have hline : (e.line == .cs) = false := beq_eq_false_iff_ne.2 h
  rw [isLatchEdge, hline]
  rfl

theorem latchedBy_of_not_cs {es : List LineEvent} (h : ∀ e ∈ es, e.line ≠ .cs) (s : State) : latchedBy s es = [] := by
  induction es generalizing s with
  | nil => rfl
  | cons e es ih =>
    obtain ⟨he, hes⟩ := List.forall_mem_cons.1 h
    rw [latchedBy_cons, isLatchEdge_of_not_cs s he, ih hes]
    rfl

theorem byteEvents_not_cs {v : Byte} {e : LineEvent} (h : e ∈ byteEvents v) : e.line ≠ .cs := by
  obtain ⟨i, -, he⟩ := List.mem_flatMap.1 h
  simp only [bitEvents, List.mem_cons, List.not_mem_nil, or_false] at he
  obtain rfl | rfl | rfl := he <;> simp

/-- A frame from CS high writes one pair, its own (R105). -/
theorem latchedBy_frame {s : State} (h : s.cs = true) (a v : Byte) : latchedBy s (frame a v) = [(a, v)] := by
  have hfirst : isLatchEdge s ⟨.cs, true⟩ = false := by simp [isLatchEdge, h]
  have hbytes : (s.performAll (byteEvents a)).performAll (byteEvents v) =
      { s with data := v.getLsbD 0, clock := true, sh := frameWord a v } := by
    rw [State.performAll_byteEvents, State.performAll_byteEvents, frameWord_low]
  have hpulse (t : State) : latchedBy t [⟨.cs, false⟩, ⟨.cs, true⟩] =
      [(t.sh.extractLsb' 8 8, t.sh.extractLsb' 0 8)] := by
    simp [latchedBy, isLatchEdge, State.perform_cs, State.perform_sh]
  rw [frame_eq_cons, latchedBy_cons, hfirst, State.perform_cs_high_of_high h, latchedBy_append, latchedBy_append,
    latchedBy_of_not_cs (fun _ => byteEvents_not_cs), latchedBy_of_not_cs (fun _ => byteEvents_not_cs), hbytes, hpulse,
    frameWord_high, frameWord_low]
  rfl

/-- Frames from CS high write their pairs, and nothing else. -/
theorem latchedBy_frames {s : State} (h : s.cs = true) (ps : List (Byte × Byte)) : latchedBy s (frames ps) = ps := by
  induction ps generalizing s with
  | nil => rfl
  | cons p ps ih =>
    rw [frames, List.flatMap_cons, latchedBy_append, latchedBy_frame h, State.performAll_frame s _ _ h]
    exact congrArg (p :: ·) (ih h)

/-! ## One step -/

theorem frameCalls_congr {s t : State} (hgame : SameGame s t) (hrows : t.rows = s.rows) (i : Instr) :
    frameCalls i t = frameCalls i s := by
  obtain ⟨hcells, -, hnext, hout⟩ := hgame
  cases i with
  | playAt row col =>
    cases hi : boardCoord? row <;> cases hj : boardCoord? col <;> simp only [frameCalls, hi, hj]
    exact if_congr (by rw [State.cell, State.cell, hout, hcells]) (by rw [hnext, pixelCalls_congr hrows]) rfl
  | setPixel row col on => simp only [frameCalls, State.row, hrows]
  | _ => rfl

theorem RestsHigh.cs_of_idle {s : State} (h : RestsHigh s) (hpend : s.pend = []) : s.cs = true := by
  rwa [RestsHigh, State.settle_idle hpend] at h

/-- A command run with nothing pending: its frames are pending, and they will write the pairs it calls. -/
theorem exec_calls {i : Instr} (hi : isCommand i = true) {s t : State} (hexec : exec i s = .next t)
    (hpend : s.pend = []) (hcs : s.cs = true) :
    t.pend = frames (frameCalls i s) ∧ latchedBy t t.pend = frameCalls i s := by
  obtain ⟨-, -, hcs', -, -⟩ := (exec_effect hexec).sameLink hi
  have hcalls : t.pend = frames (frameCalls i s) := by
    rw [exec_pend (by rintro v0 v1 v2 v3 v4 v5 v6 v7 rfl; cases hi) hexec, hpend, List.nil_append]
  exact ⟨hcalls, by rw [hcalls, latchedBy_frames (hcs'.trans hcs)]⟩

/-- What a step without a reset shows, and what is pending after it, come to what was pending before and the calls of
the step. -/
theorem step_traces {s t : State} (hrest : RestsHigh s) (hrst : s.takeInput.1.rst = false) (hstep : step s = .next t) :
    performedEvent s.takeInput.1 s ++ t.pend = s.pend ++ frames (stepCalls s.takeInput.1 s) ∧
      latchedPair s.takeInput.1 s ++ latchedBy t t.pend = latchedBy s s.pend ++ stepCalls s.takeInput.1 s := by
  cases step_branch hstep with
  | reset hrst' => rw [hrst] at hrst'; cases hrst'
  | drain e rest _ hpend ht =>
    have hlink : SameLink (s.perform e) t := by
      rw [ht]
      exact SameLink.perform (t := { s.takeInput.2 with pend := rest }) s.takeInput_sameLink e
    have hpend' : t.pend = rest := by rw [ht, State.perform_pend]
    simp [performedEvent, latchedPair, stepCalls, hrst, hpend, hpend', latchedBy_cons, hlink.latchedBy, frames]
  | sample _ hpend hwait hsample =>
    have hcs : s.takeInput.2.cs = true := by rw [State.takeInput_cs, hrest.cs_of_idle hpend]
    have hempty : s.takeInput.2.pend = [] := by rw [State.takeInput_pend, hpend]
    unfold takeSample at hsample
    dsimp only at hsample
    split at hsample
    case isTrue hzero =>
      cases hsample
      simp [performedEvent, latchedPair, stepCalls, hrst, hpend, hwait, hzero, latchedBy, frames]
    case isFalse hplay =>
      obtain ⟨hframes, hpairs⟩ := exec_calls (i := .playAt _ _) rfl hsample hempty hcs
      rw [frameCalls_congr (s := s) (t := s.takeInput.2.setWaiting false) s.takeInput_sameGame s.takeInput_rows]
        at hframes hpairs
      simpa [performedEvent, latchedPair, stepCalls, hrst, hpend, hwait, hplay, latchedBy] using ⟨hframes, hpairs⟩
  | accept _ hpend hwait hvalid hexec =>
    have hcs : s.takeInput.2.cs = true := by rw [State.takeInput_cs, hrest.cs_of_idle hpend]
    have hempty : s.takeInput.2.pend = [] := by rw [State.takeInput_pend, hpend]
    obtain ⟨hframes, hpairs⟩ := exec_calls (isCommand_decodeCmd _) hexec hempty hcs
    rw [frameCalls_congr s.takeInput_sameGame s.takeInput_rows] at hframes hpairs
    simpa [performedEvent, latchedPair, stepCalls, hrst, hpend, hwait, hvalid, latchedBy] using ⟨hframes, hpairs⟩
  | idle _ hpend hwait hvalid ht =>
    simp [performedEvent, latchedPair, stepCalls, hrst, hpend, hwait, hvalid, ht, latchedBy, frames]

/-! ## A run (R200) -/

theorem step_inputs {s t : State} (hstep : step s = .next t) : t.inputs = s.takeInput.2.inputs := by
  cases step_branch hstep with
  | reset hrst ht => obtain rfl | rfl := ht <;> rfl
  | drain e rest hrst hpend ht => rw [ht, State.perform_inputs]
  | sample hrst hpend hwait hsample =>
    obtain rfl | ⟨row, col, hplay⟩ := takeSample_exec hsample
    · rfl
    · exact (exec_effect hplay).sameInputs.1
  | accept hrst hpend hwait hvalid hexec => exact (exec_effect hexec).sameInputs.1
  | idle hrst hpend hwait hvalid ht => rw [ht]

theorem traceOf_succ {α : Type} (f : StepInput → State → State → List α) {s t : State} (hstep : step s = .next t)
    (k : Nat) : traceOf f (k + 1) s = f s.takeInput.1 s t ++ traceOf f k t := by
  rw [traceOf, hstep]

/-- A run that ends with nothing pending: its events are those pending at the start and those of its calls, and its
pairs are what the former write and the calls. -/
theorem run_traces {k : Nat} {s t : State} (hrest : RestsHigh s) (hreset : NoReset k s) (hrun : runSteps k s = .next t)
    (hend : t.pend = []) :
    eventTrace k s = s.pend ++ frames (callTrace k s) ∧ frameTrace k s = latchedBy s s.pend ++ callTrace k s := by
  induction k generalizing s with
  | zero =>
    cases hrun
    rw [hend]
    exact ⟨rfl, rfl⟩
  | succ k ih =>
    obtain ⟨i, rest, hinputs, hrst, hlater⟩ := hreset.uncons
    have htake := State.takeInput_cons s i rest hinputs
    obtain ⟨u, hstep⟩ := step_next s
    have hrest' := hrest.step hstep
    have hinputs' : u.inputs = rest := by rw [step_inputs hstep, htake]
    rw [runSteps_next k hstep] at hrun
    obtain ⟨hevents, hpairs⟩ := ih hrest' (hlater u hinputs') hrun
    obtain ⟨hstepEvents, hstepPairs⟩ := step_traces hrest (by rw [htake]; exact hrst) hstep
    unfold eventTrace frameTrace callTrace at *
    rw [traceOf_succ _ hstep, traceOf_succ _ hstep, traceOf_succ _ hstep]
    constructor
    · rw [hevents, ← List.append_assoc, hstepEvents, List.append_assoc, ← frames_append]
    · rw [hpairs, ← List.append_assoc, hstepPairs, List.append_assoc]

/-- A step performs at most one event (R195). -/
theorem eventTrace_length_le (k : Nat) (s : State) : (eventTrace k s).length ≤ k := by
  induction k generalizing s with
  | zero => exact Nat.le_refl 0
  | succ k ih =>
    obtain ⟨t, hstep⟩ := step_next s
    have hone : (performedEvent s.takeInput.1 s).length ≤ 1 := by
      unfold performedEvent
      split
      · exact Nat.zero_le 1
      · cases s.pend <;> simp
    have hlater := ih t
    unfold eventTrace at *
    rw [traceOf_succ _ hstep, List.length_append]
    omega

/-- Pending frames leave CS high, once they have been performed from CS high. -/
theorem RestsHigh.of_frames {s : State} {ps : List (Byte × Byte)} (hpend : s.pend = frames ps) (hcs : s.cs = true) :
    RestsHigh s := by
  obtain ⟨-, hhigh⟩ := State.performAll_frames_dev ps { s with pend := [] } hcs
  rw [RestsHigh, State.settle, hpend]
  exact hhigh

/-- Settles O58: the run is `run_traces`; while frames are drained there is no room for the events of a call, since each
step performs one event at most. -/
theorem frameTraceIsTheListOfFrames : Obligations.FrameTraceIsTheListOfFrames := by
  have hrun {k : Nat} {ps : List (Byte × Byte)} {s t : State} (hpend : s.pend = frames ps) (hcs : s.cs = true)
      (hreset : NoReset k s) (hrun : runSteps k s = .next t) (hend : t.pend = []) :
      frameTrace k s = ps ++ callTrace k s ∧ eventTrace k s = frames (ps ++ callTrace k s) := by
    obtain ⟨hevents, hpairs⟩ := run_traces (.of_frames hpend hcs) hreset hrun hend
    rw [hevents, hpairs, hpend, latchedBy_frames hcs, frames_append]
    exact ⟨rfl, rfl⟩
  refine ⟨fun ps s hpend hcs hreset => ?drain, fun k ps s t => hrun⟩
  case drain =>
    rw [← frames_length ps] at hreset ⊢
    have hdrains := run_drains (frames ps) [] s (by rw [hpend, List.append_nil]) hreset
    obtain ⟨hpairs, hevents⟩ := hrun hpend hcs hreset hdrains rfl
    have hlength := eventTrace_length_le (frames ps).length s
    rw [hpairs, hevents]
    rw [hevents] at hlength
    generalize callTrace (frames ps).length s = calls at *
    have hnone : calls = [] := by
      rw [frames_length, frames_length, List.length_append] at hlength
      exact List.length_eq_zero_iff.1 (by omega)
    rw [hnone, List.append_nil]
    exact ⟨rfl, rfl⟩

end Sys2Proof.Machine
end

section
/-! The output ports that show the state (R26, R80), and the pixels that the device shows (R57). A status port is its
fields side by side, so each bit of it is a bit of one field. -/

namespace Sys2Proof.Machine

theorem Cell.code_eq (c : Cell) : c.code =
    match c with
    | .empty => 0b00#2
    | .player1 => 0b01#2
    | .player2 => 0b10#2 := by
  cases c <;> rfl

/-- Cell `k` stands in bits `2k+1:2k` of its port (R26). -/
theorem State.stBoard_extract (s : State) (k : Fin 9) : s.stBoard.extractLsb' (2 * k.val) 2 = (s.cell k).code := by
  apply BitVec.eq_of_getLsbD_eq
  intro i hi
  rw [BitVec.getLsbD_extractLsb', decide_eq_true hi, Bool.true_and, State.stBoard]
  simp only [BitVec.getLsbD_append]
  fin_cases k <;> interval_cases i <;> rfl

/-- Row `r` stands in bits `8r+7:8r` of its port (R26). -/
theorem State.stRows_extract (s : State) (r : Fin 8) : s.stRows.extractLsb' (8 * r.val) 8 = s.row r := by
  apply BitVec.eq_of_getLsbD_eq
  intro i hi
  rw [BitVec.getLsbD_extractLsb', decide_eq_true hi, Bool.true_and, State.stRows]
  simp only [BitVec.getLsbD_append]
  fin_cases r <;> interval_cases i <;> rfl

theorem State.cmdReady_iff (s : State) : s.cmdReady = true ↔ s.pend = [] ∧ s.waiting = false := by
  simp [State.cmdReady]

theorem Player.code_eq_zero_iff (p : Player) : p.code = 0#1 ↔ p = .player1 := by
  cases p <;> decide

/-- Different outcomes have different numbers (R80). -/
theorem GameOutcome.code_inj {o o' : GameOutcome} : o.code = o'.code ↔ o = o' := by
  cases o <;> cases o' <;> decide

/-- Settles O60: the place of every field, and that the numbers of R80 tell their values apart. -/
theorem statusPorts : Obligations.StatusPorts := fun s =>
  ⟨s.cmdReady_iff, rfl, fun k => (s.stBoard_extract k).trans (Cell.code_eq _), s.stRows_extract,
    s.nextPlayer.code_eq_zero_iff, GameOutcome.code_inj (o' := .inProgress), GameOutcome.code_inj (o' := .player1Wins),
    GameOutcome.code_inj (o' := .player2Wins), GameOutcome.code_inj (o' := .draw)⟩

/-! ## The pixels shown (R57) -/

theorem State.showsRows_iff (s : State) : s.showsRows = true ↔
    s.dev.read 0x09 = 0x00#8 ∧ s.dev.read 0x0B = 0x07#8 ∧ s.dev.read 0x0C = 0x01#8 ∧ s.dev.read 0x0F = 0x00#8 := by
  simp only [State.showsRows, Bool.and_eq_true, beq_iff_eq, and_assoc]

/-- Settles O42: the two branches of `State.pixelLit?`, on whether the four settings hold. -/
theorem pixelIsLitByItsRowBit : Obligations.PixelIsLitByItsRowBit := by
  refine ⟨fun s r c hdecode hscan hshutdown htest => ?_, fun s r c hother => ?_⟩
  · exact if_pos (s.showsRows_iff.2 ⟨hdecode, hscan, hshutdown, htest⟩)
  · refine if_neg fun hshows => ?_
    obtain ⟨hdecode, hscan, hshutdown, htest⟩ := s.showsRows_iff.1 hshows
    obtain h | h | h | h := hother
    · exact h hdecode
    · exact h hscan
    · exact h hshutdown
    · exact h htest

end Sys2Proof.Machine
end
